-- ==== Sys2Proof/Word.lean ====
section
/-! DEFINITION. The word types of HUFF-CORE (spec/00_scope.md R7, R10, R11; spec/10_state.md R38). -/

namespace Sys2Proof

/-- A host-visible register word, bit 0 least significant (R10, R22). -/
abbrev Word := BitVec 32

/-- One input or output symbol, `SYM_W = 8` bits (R7). -/
abbrev Byte := BitVec 8

/-- A bit string in transmission order: the head of the list is the first bit (R11). -/
abbrev Bits := List Bool

/-- A 10-bit index of the node pool (R38); `Config.nil` means "no node". -/
abbrev NodeIdx := BitVec 10

/-- A node weight. `W_WEIGHT = W_COUNT + 9` bits (R8), so 41 bits hold it for every `W_COUNT ≤ 32`. -/
abbrev Weight := BitVec 41

/-- One entry of the node pool NODE (R38): `value` is the 10-bit two's-complement field (`0x3FF` is −1). -/
structure Node where
  isLeaf : Bool
  value  : BitVec 10
  weight : Weight
  left   : NodeIdx
  right  : NodeIdx
deriving DecidableEq, Repr, Inhabited

end Sys2Proof
end

