-- ==== Sys2Proof/Config.lean ====
section
/-! DEFINITION. What the implementation fixes (spec/00_scope.md R7, R8) and the FREE VALUES: constants with no body
that stand for every value the spec leaves unspecified (spec/93_implementation_defined.md). Nothing can evaluate one. -/

namespace Sys2Proof.Config

/-- `NODE_CAP`, the node-pool capacity (R7, D15). -/
abbrev nodeCap : Nat := 513

/-- `PQ_CAP`, the priority-queue capacity (R7). -/
abbrev pqCap : Nat := 257

/-- `CODE_MAX`, the longest code the code table holds (R7). -/
abbrev codeMax : Nat := 256

/-- `EOF_SYM`, the value of the end-of-stream sentinel (R7). -/
abbrev eofSym : Nat := 256

/-- `MAGIC_TREE`, the magic number of the tree-header format (R7, R87). -/
def magicTree : Word := 0xFACE8201

/-- `MAGIC_COUNT`, the magic number of the reserved count-based format (R7, R87). -/
def magicCount : Word := 0xFACE8202

/-- The constant the ID register reads (R23). -/
def idWord : Word := 0x48554646

/-- `NIL`, the 10-bit index meaning "no node" (R7, D16). -/
def nil : NodeIdx := 0x3FF

/-- `INTERNAL_VALUE`: −1 in the 10-bit value field of an internal node (R7, R38). -/
def internalValue : BitVec 10 := 0x3FF

/-- The implementation parameter of R8. A model takes `W_COUNT` as an argument: it is a field of the machine, from 1 to 32,
32 in this hardware; no step changes it. -/
structure Params where
  wCount : Nat
deriving DecidableEq, Repr

/-- FREE VALUE: what a register read that the spec leaves unspecified returns (R27, R35, R225; I6, I7). -/
opaque freeWord : Nat → Word

/-- FREE VALUE: how much a port transaction answered `IOERR` or `EOS` did, as a number (R64, R65, R66; I2, I3). -/
opaque freeNat : Nat → Nat

/-- FREE VALUE: contents of FREQ where the spec leaves them unspecified (R37, R194; I5). -/
opaque freeFreq : Nat → Vector Word 256

/-- FREE VALUE: contents of the node pool where the spec leaves them unspecified (R38, R143; I5). -/
opaque freeNodes : Nat → Vector Node 513

/-- FREE VALUE: contents of the code table where the spec leaves them unspecified (R42; I5). -/
opaque freeCodes : Nat → Vector Bits 257

/-- FREE VALUE: the entry read at an index outside the node pool, which no rule defines and no run reaches (R38). -/
opaque freeNode : NodeIdx → Node

/-- FREE VALUE: bytes a collaborator holds after a reset during a command (R221; I14). -/
opaque freeBytes : Nat → List Byte

/-- FREE VALUE: bits a collaborator holds after a reset during a command (R221; I14). -/
opaque freeBits : Nat → Bits

end Sys2Proof.Config
end

