-- ==== Sys2Proof/Syntax.lean ====
section
/-! DEFINITION. The instructions of HUFF-CORE: the thirteen host commands (spec/30_encoding.md R81) and the three wire
tokens of the tree header (R87, R88). One constructor per row of spec/opcode_table.json. -/

namespace Sys2Proof

/-- The instructions. A command is started by a host write to COMMAND; a wire token is read from BSRC by the deserializer
of RDHDR, which fetches, decodes and executes tokens one at a time (R142). -/
inductive Instr where
  /-- `NOP`, word `0x00000000` (R180). -/
  | nop
  /-- `CLEAR`, word `0x00000001` (R181). -/
  | clear
  /-- `COUNT`, word `0x00000002` (R100). -/
  | count
  /-- `BUILD_INIT`, word `0x00000003` (R114). -/
  | buildInit
  /-- `BUILD_MERGE`, word `0x00000004` (R115). -/
  | buildMerge
  /-- `BUILD`, word `0x00000005` (R116). -/
  | build
  /-- `GENCODES`, word `0x00000006` (R131). -/
  | gencodes
  /-- `WRHDR`, word `0x00000007` (R141). -/
  | wrhdr
  /-- `ENCODE`, word `0x00000008` (R161). -/
  | encode
  /-- `COMPRESS`, word `0x00000009` (R182). -/
  | compress
  /-- `RDHDR`, word `0x0000000A` (R143). -/
  | rdhdr
  /-- `DECODE`, word `0x0000000B` (R163). -/
  | decode
  /-- `DECOMPRESS`, word `0x0000000C` (R183). -/
  | decompress
  /-- Wire token `MAGIC`, the 32 bits of `0xFACE8201` (R87). -/
  | magic
  /-- Wire token `INTERNAL`, the bit `0` (R88). -/
  | internal
  /-- Wire token `LEAF`, the bit `1` and nine value bits (R88, R90). -/
  | leaf (value : Nat)
deriving DecidableEq, Repr

end Sys2Proof
end

