-- ==== Sys2Proof/WellFormed.lean ====
section
/-! DEFINITION. Which instructions are well formed. Commands have no operand (spec/30_encoding.md R80); the one operand
of the instruction set is the leaf value, nine bits wide (R90). -/

namespace Sys2Proof

/-- The check: a leaf value fits in `LEAF_W = 9` bits, 0 to 511 (R90); everything else is well formed as it stands. -/
def Instr.wellFormed : Instr → Bool
  | .nop => true
  | .clear => true
  | .count => true
  | .buildInit => true
  | .buildMerge => true
  | .build => true
  | .gencodes => true
  | .wrhdr => true
  | .encode => true
  | .compress => true
  | .rdhdr => true
  | .decode => true
  | .decompress => true
  | .magic => true
  | .internal => true
  | .leaf v => decide (v < 512)

/-- `i` is well formed. -/
abbrev WellFormed (i : Instr) : Prop := i.wellFormed = true

end Sys2Proof
end

