-- ==== Sys2Proof/Decode.lean ====
section
/-! DEFINITION. Bit strings as numbers (spec/00_scope.md R11, R12), the decoder (spec/30_encoding.md R80 to R90), total on any
bits and rejecting by name, and after it the encoder. -/

namespace Sys2Proof

/-! ## Bit strings -/

/-- `num(p)`: the number whose binary numeral is `p`, first bit most significant (R11). -/
def num (p : Bits) : Nat := p.foldl (fun a b => 2 * a + b.toNat) 0

/-- `bits_n(v)`: the `n` low bits of `v`, most significant first (R11, R12). -/
def bitsN : Nat → Nat → Bits
  | 0, _ => []
  | n + 1, v => v.testBit n :: bitsN n v

/-! ## Decoder -/

/-- Why bits are not an instruction. -/
inductive Reject where
  /-- OPC `0x0D` to `0xFF` (R82). -/
  | reservedOpcode
  /-- HMODE is not `00`: the count-based header `01` is reserved, `10` and `11` too (R82, R83). -/
  | reservedHeaderMode
  /-- A bit of 31:10 is 1 (R82). -/
  | reservedBits
  /-- Fewer bits than the format has. -/
  | tooShort
  /-- 32 bits that are not `0xFACE8201`, `0xFACE8202` among them (R87, R94). -/
  | notMagic
deriving DecidableEq, Repr

/-- Where an instruction is read from: the COMMAND register, the first 32 bits of a stream, or the tree section (R86). -/
inductive Slot where
  | command
  | preamble
  | tree
deriving DecidableEq, Repr

/-- The slot an instruction is read from. -/
def Instr.slot : Instr → Slot
  | .nop => .command
  | .clear => .command
  | .count => .command
  | .buildInit => .command
  | .buildMerge => .command
  | .build => .command
  | .gencodes => .command
  | .wrhdr => .command
  | .encode => .command
  | .compress => .command
  | .rdhdr => .command
  | .decode => .command
  | .decompress => .command
  | .magic => .preamble
  | .internal => .tree
  | .leaf _ => .tree

/-- The opcode map of R81, read from OPC to mnemonic; `0x0D` to `0xFF` are reserved. -/
def commandOfOpc (opc : Byte) : Except Reject Instr :=
  match opc.toNat with
  | 0x00 => .ok .nop
  | 0x01 => .ok .clear
  | 0x02 => .ok .count
  | 0x03 => .ok .buildInit
  | 0x04 => .ok .buildMerge
  | 0x05 => .ok .build
  | 0x06 => .ok .gencodes
  | 0x07 => .ok .wrhdr
  | 0x08 => .ok .encode
  | 0x09 => .ok .compress
  | 0x0A => .ok .rdhdr
  | 0x0B => .ok .decode
  | 0x0C => .ok .decompress
  | _ => .error .reservedOpcode

/-- Decode a command word (R80): OPC in 7:0, HMODE in 9:8 must be `00`, 31:10 must be 0 (R82). -/
def decodeCommand (w : Word) : Except Reject Instr :=
  if w.extractLsb' 10 22 ≠ 0 then .error .reservedBits
  else if w.extractLsb' 8 2 ≠ 0 then .error .reservedHeaderMode
  else commandOfOpc (w.extractLsb' 0 8)

/-- Decode the 32-bit preamble of a stream, and give the bits after it (R87). -/
def decodePreamble (p : Bits) : Except Reject (Instr × Bits) :=
  if p.length < 32 then .error .tooShort
  else if num (p.take 32) = Config.magicTree.toNat then .ok (.magic, p.drop 32)
  else .error .notMagic

/-- Decode one token of the tree section, and give the bits after it: the first bit tells the length (R88, R89, R90). -/
def decodeTree : Bits → Except Reject (Instr × Bits)
  | [] => .error .tooShort
  | false :: p => .ok (.internal, p)
  | true :: p => if p.length < 9 then .error .tooShort else .ok (.leaf (num (p.take 9)), p.drop 9)

/-- The decoder: the instruction at the head of a bit string, and the bits after it. A command word is taken as
`bits_32(w)`. -/
def decodeAt (slot : Slot) (p : Bits) : Except Reject (Instr × Bits) :=
  match slot with
  | .command =>
    if p.length < 32 then .error .tooShort
    else (decodeCommand (BitVec.ofNat 32 (num (p.take 32)))).map fun i => (i, p.drop 32)
  | .preamble => decodePreamble p
  | .tree => decodeTree p

/-- The instruction the decoder reads from a row's bits numbered as spec/opcode_table.json numbers them: 32 bits are a
command word or the preamble; a pattern of 1 bit and one of 10 bits (8 and 16 in whole bytes) are tree tokens. -/
def decodeTableWord (nbits w : Nat) : Option Instr :=
  if 2 ^ nbits ≤ w then none
  else if nbits = 32 then
    match decodeCommand (BitVec.ofNat 32 w) with
    | .ok i => some i
    | .error _ => (decodePreamble (bitsN 32 w)).toOption.map Prod.fst
  else if nbits = 1 ∨ nbits = 8 then
    if w < 2 then (decodeTree (bitsN 1 w)).toOption.map Prod.fst else none
  else if nbits = 10 ∨ nbits = 16 then
    if 512 ≤ w ∧ w < 1024 then (decodeTree (bitsN 10 w)).toOption.map Prod.fst else none
  else none

/-! ## Encoder -/

/-- The opcode map of R81, read from mnemonic to OPC. A wire token has no opcode: it is read while RDHDR, `0x0A`, runs. -/
def opcOf : Instr → Byte
  | .nop => 0x00
  | .clear => 0x01
  | .count => 0x02
  | .buildInit => 0x03
  | .buildMerge => 0x04
  | .build => 0x05
  | .gencodes => 0x06
  | .wrhdr => 0x07
  | .encode => 0x08
  | .compress => 0x09
  | .rdhdr => 0x0A
  | .decode => 0x0B
  | .decompress => 0x0C
  | .magic => 0x0A
  | .internal => 0x0A
  | .leaf _ => 0x0A

/-- The word of a command: `zext_32(OPC)` (R81). -/
def commandWord (i : Instr) : Word := (opcOf i).setWidth 32

/-- The bit string of an instruction, first bit first: `bits_32` of a command's word (R81), or a token's bits (R87, R88). -/
def encode (i : Instr) : Bits :=
  match i with
  | .nop => bitsN 32 0x00000000
  | .clear => bitsN 32 0x00000001
  | .count => bitsN 32 0x00000002
  | .buildInit => bitsN 32 0x00000003
  | .buildMerge => bitsN 32 0x00000004
  | .build => bitsN 32 0x00000005
  | .gencodes => bitsN 32 0x00000006
  | .wrhdr => bitsN 32 0x00000007
  | .encode => bitsN 32 0x00000008
  | .compress => bitsN 32 0x00000009
  | .rdhdr => bitsN 32 0x0000000A
  | .decode => bitsN 32 0x0000000B
  | .decompress => bitsN 32 0x0000000C
  | .magic => bitsN 32 0xFACE8201
  | .internal => [false]
  | .leaf v => true :: bitsN 9 v

end Sys2Proof
end

