-- ==== Sys2Proof/Machine/State.lean ====
section
/-! DEFINITION. The machine's state: everything spec/10_state.md gives the block, the environment it depends on (R48), and the
two fields of the model's own (`sched`, `draws`); the reasons a step can stop; the state right after reset. -/

namespace Sys2Proof.Machine

/-- The sequencer state (R21): IDLE, or BUSY with the opcode of the primitive command (or phase) being executed. -/
inductive Phase where
  | idle
  | busy (op : Byte)
deriving DecidableEq, Repr

/-- The error kinds of STATUS.ERRCODE (spec/60_exceptions.md R190). -/
inductive ErrCode where
  | none
  | illegalCommand
  | sequence
  | formatMismatch
  | truncatedHeader
  | truncatedBody
  | upstreamIo
  | countOverflow
  | treeCapacity
  | degenerateTree
  | missingCode
deriving DecidableEq, Repr

/-- The values of ERRINFO.PORT (R31). -/
inductive PortId where
  | none
  | src
  | bsnk
  | bsrc
  | bysnk
deriving DecidableEq, Repr

/-- ERRINFO (R31): the port of the failing response and the opcode of the failing phase. -/
structure ErrInfo where
  port     : PortId
  phaseOpc : Byte
deriving DecidableEq, Repr

/-- One pending subtree of the deserializer (R142, R43): internal node `idx` whose left child is not parsed yet (`none`) or is
known (`some l`) while its right child is parsed. -/
structure Frame where
  idx  : NodeIdx
  left : Option NodeIdx
deriving DecidableEq, Repr

/-- The hidden working state (R43): the transaction the engine is at inside the running command. -/
inductive Work where
  /-- No command runs. -/
  | none
  /-- The body of `i` is about to start. -/
  | start (i : Instr)
  /-- COUNT at its `SrcRead8` (R100). -/
  | countRead
  /-- WRHDR at `put(32, MAGIC_TREE)` (R141). -/
  | putMagic
  /-- The serializer at a node's flag; `stack` holds the subtrees still to write, the next one first (R140). -/
  | putFlag (stack : List NodeIdx)
  /-- The serializer at the nine value bits of the leaf at the head of `stack` (R140). -/
  | putValue (stack : List NodeIdx)
  /-- RDHDR at `get(32, FORMAT_MISMATCH)` (R143). -/
  | getMagic
  /-- The deserializer at a token, with the pending subtrees, innermost first (R142); their number is not bounded (log entry 21). -/
  | getToken (stack : List Frame)
  /-- The deserializer at the nine value bits of leaf `idx` (R142). -/
  | getValue (idx : NodeIdx) (stack : List Frame)
  /-- ENCODE at `SrcRewind` (R161). -/
  | rewind
  /-- ENCODE at its `SrcRead8` (R161). -/
  | encodeRead
  /-- ENCODE at `emit(code)`; `last` when it is the sentinel's code (R160, R161). -/
  | emit (code : Bits) (last : Bool)
  /-- DECODE at `get(1, TRUNCATED_BODY)` with traversal pointer `p` (R162, R163). -/
  | decodeBit (p : NodeIdx)
  /-- DECODE at `ByteWrite(v)` (R163). -/
  | decodeByte (v : Byte)
deriving DecidableEq, Repr

/-- What a collaborator does with a transaction (R62). An answered read gives `DATA` or `EOS` by the stream's contents. -/
inductive Reply where
  /-- It answers `DATA`, `EOS` or `OK`. -/
  | answer
  /-- It answers `IOERR`. -/
  | ioerr
  /-- It never answers; the entry stays. -/
  | silent
deriving DecidableEq, Repr

/-- SRC, the symbol source (R63): the input, the read position, and how the next transactions are answered
(after the list: every one with `answer`). -/
structure Src where
  data    : List Byte
  pos     : Nat
  replies : List Reply
deriving DecidableEq, Repr

/-- BSNK, the bit sink (R64): the bits appended so far, first bit first. -/
structure BitSink where
  bits    : Bits
  replies : List Reply
deriving DecidableEq, Repr

/-- BSRC, the bit source (R65). -/
structure BitSrc where
  bits    : Bits
  pos     : Nat
  replies : List Reply
deriving DecidableEq, Repr

/-- BYSNK, the byte sink (R66): the bytes appended so far, first byte first. -/
structure ByteSink where
  bytes   : List Byte
  replies : List Reply
deriving DecidableEq, Repr

/-- What the outside does next: bus accesses of the host (R61, R84), `WAIT` (R85), the reset input (R220), and the environment
statements that set up the collaborators (R84). `width` is in bits, `addr` a byte offset. -/
inductive HostEvent where
  | write (width addr : Nat) (data : Word)
  | read (width addr : Nat)
  | wait
  | assertReset
  | releaseReset
  | setSrc (bytes : List Byte)
  | setBsrc (bits : Bits)
  | clearBsnk
  | clearBysnk
  | setReplies (port : PortId) (replies : List Reply)
deriving DecidableEq, Repr

/-- Who moves next while a command runs. -/
inductive Agent where
  | engine
  | host
deriving DecidableEq, Repr

/-- TBL_ADDR (R34). -/
structure TblAddr where
  index : BitVec 10
  word  : BitVec 4
  table : BitVec 2
deriving DecidableEq, Repr

/-- The machine. -/
structure State where
  /-- PHASE (R21); STATUS.BUSY is 1 exactly when it is not IDLE. -/
  phase      : Phase
  /-- Hidden working state (R43). -/
  work       : Work
  /-- The phases of a composite command still to run, in order (R182, R183). -/
  todo       : List Instr
  /-- STATUS.DONE (R26). -/
  done       : Bool
  /-- STATUS.ERR (R26). -/
  err        : Bool
  /-- STATUS.DROP (R26, R198). -/
  drop       : Bool
  /-- STATUS.ERRCODE (R26, R190). -/
  errCode    : ErrCode
  /-- STATUS.FREQ_VALID (R26, R44). -/
  freqValid  : Bool
  /-- STATUS.PQ_ACTIVE (R26, R44). -/
  pqActive   : Bool
  /-- STATUS.TREE_VALID (R26, R44). -/
  treeValid  : Bool
  /-- STATUS.TREE_SRC: the tree was read from a header (R26, R44). -/
  treeSrc    : Bool
  /-- STATUS.CODES_VALID (R26, R44). -/
  codesValid : Bool
  /-- STATUS.EOS_SEEN (R26, R44). -/
  eosSeen    : Bool
  /-- STATUS.LAST_OPC (R26). -/
  lastOpc    : Byte
  /-- INT_EN: bit 0 DONE_IE, bit 1 ERR_IE, bit 2 DROP_IE (R28). -/
  intEn      : BitVec 3
  /-- TREE.ROOT (R29, R40). -/
  root       : NodeIdx
  /-- TREE.NODE_COUNT (R29, R40). -/
  nodeCount  : BitVec 10
  /-- PQINFO.LEAF_COUNT (R30, R40). -/
  leafCount  : BitVec 9
  /-- ERRINFO (R31). -/
  errInfo    : ErrInfo
  /-- SYM_IN (R32). -/
  symIn      : BitVec 32
  /-- BITS_OUT_HI:BITS_OUT_LO (R32). -/
  bitsOut    : BitVec 64
  /-- BITS_IN_HI:BITS_IN_LO (R32). -/
  bitsIn     : BitVec 64
  /-- BYTES_OUT (R32). -/
  bytesOut   : BitVec 32
  /-- HDR_BITS (R32). -/
  hdrBits    : BitVec 32
  /-- TBL_ADDR (R34). -/
  tblAddr    : TblAddr
  /-- FREQ, the frequency table (R37). -/
  freq       : Vector Word 256
  /-- NODE, the node pool (R38). -/
  node       : Vector Node 513
  /-- PQ, a set of node indices (R41): ascending, no repeats; PQINFO.PQ_SIZE is its length. -/
  pq         : List NodeIdx
  /-- CT, the code table (R42): the empty string is "no code". -/
  ct         : Vector Bits 257
  /-- The implementation parameter (R8). -/
  params     : Config.Params
  /-- Environment: the symbol source (R48, R63). -/
  src        : Src
  /-- Environment: the bit sink (R48, R64). -/
  bsnk       : BitSink
  /-- Environment: the bit source (R48, R65). -/
  bsrc       : BitSrc
  /-- Environment: the byte sink (R48, R66). -/
  bysnk      : ByteSink
  /-- Environment: what the host and the platform do, in order (R71). -/
  host       : List HostEvent
  /-- Environment: the values the host has read, latest first, with their offsets (R84 `RD`). -/
  reads      : List (Nat × Word)
  /-- Environment: the reset input is asserted (R220). -/
  resetLine  : Bool
  /-- The model's own: who moves next while BUSY; after the list, the engine (R230). -/
  sched      : List Agent
  /-- The model's own: how many free values have been drawn. -/
  draws      : Nat
deriving DecidableEq, Repr

/-- Why the machine stops with a fault. The block's own errors are no faults: they are recorded and the machine goes on (R193). -/
inductive Fault where
  /-- Raised by `MAGIC`, `INTERNAL` and `LEAF` where the deserializer is not at that token: no wire token is read then (R89,
  R142). SAFE: no step of the machine raises it, since `step` runs a token only where the deserializer is at it. -/
  | tokenNotAwaited
deriving DecidableEq, Repr

/-- Why the machine refuses. -/
inductive Refusal where
  /-- An instruction that has no meaning in the model. SAFE. No arm of `exec` uses it. -/
  | notModelled (mnemonic : String)
  /-- Raised by the register window: an access that is not an aligned 32-bit word inside `0x00` to `0xFF`; "a model refuses it
  (no step)" (R61). SAFE. -/
  | undefinedAccess
  /-- Raised by the register window: an access while reset is asserted; "a model gives the host no step on the block" (R220).
  SAFE. -/
  | accessInReset
deriving DecidableEq, Repr

/-- A node-pool entry at reset. DESIGN CHOICE (log entry 2): the spec leaves the contents of FREQ, NODE and CT unspecified (R46). -/
def Node.blank : Node := ⟨false, 0, 0, 0, 0⟩

/-- The state right after reset (R46, R220): every register at the value the spec states. The contents of FREQ, NODE and CT, which
the spec leaves unspecified, are zero and empty (DESIGN CHOICE, log entry 2); the hidden working state is `none` (log entry 3); the
environment is empty streams, no pending event and every transaction answered (log entry 4). -/
def State.reset : State where
  phase      := .idle
  work       := .none
  todo       := []
  done       := false
  err        := false
  drop       := false
  errCode    := .none
  freqValid  := false
  pqActive   := false
  treeValid  := false
  treeSrc    := false
  codesValid := false
  eosSeen    := false
  lastOpc    := 0
  intEn      := 0
  root       := Config.nil
  nodeCount  := 0
  leafCount  := 0
  errInfo    := ⟨.none, 0⟩
  symIn      := 0
  bitsOut    := 0
  bitsIn     := 0
  bytesOut   := 0
  hdrBits    := 0
  tblAddr    := ⟨0, 0, 0⟩
  freq       := Vector.replicate 256 0
  node       := Vector.replicate 513 Node.blank
  pq         := []
  ct         := Vector.replicate 257 []
  params     := ⟨32⟩
  src        := ⟨[], 0, []⟩
  bsnk       := ⟨[], []⟩
  bsrc       := ⟨[], 0, []⟩
  bysnk      := ⟨[], []⟩
  host       := []
  reads      := []
  resetLine  := false
  sched      := []
  draws      := 0

end Sys2Proof.Machine
end

