-- ==== Sys2Proof/Machine/Flags.lean ====
section
/-! DEFINITION. STATUS, ERRINFO, the interrupt output and the other registers assembled from State
(spec/10_state.md R26 to R33, spec/60_exceptions.md R190, R199). -/

namespace Sys2Proof.Machine

/-- The number of an error kind (R190). -/
def ErrCode.code : ErrCode → Nat
  | .none => 0
  | .illegalCommand => 1
  | .sequence => 2
  | .formatMismatch => 3
  | .truncatedHeader => 4
  | .truncatedBody => 5
  | .upstreamIo => 6
  | .countOverflow => 7
  | .treeCapacity => 8
  | .degenerateTree => 9
  | .missingCode => 10

/-- The number of a port in ERRINFO.PORT (R31). -/
def PortId.num : PortId → Nat
  | .none => 0
  | .src => 1
  | .bsnk => 2
  | .bsrc => 3
  | .bysnk => 4

/-- STATUS.BUSY: 1 while a command executes (R21, R26). -/
def State.busy (s : State) : Bool := decide (s.phase ≠ .idle)

/-- A one-bit field at bit `k` of a register word. -/
def bitAt (k : Nat) (b : Bool) : Word := if b then BitVec.twoPow 32 k else 0

/-- A field `v` whose lowest bit is bit `k` of a register word. -/
def fieldAt {n : Nat} (k : Nat) (v : BitVec n) : Word := v.setWidth 32 <<< k

/-- STATUS bits 13:8 (R26). -/
def State.validityBits (s : State) : Word :=
  bitAt 8 s.freqValid ||| bitAt 9 s.pqActive ||| bitAt 10 s.treeValid ||| bitAt 11 s.treeSrc |||
    bitAt 12 s.codesValid ||| bitAt 13 s.eosSeen

/-- STATUS but for bits 13:8: BUSY, DONE, ERR, DROP, ERRCODE and LAST_OPC (R26); the bits R27 and R225 keep exact while BUSY. -/
def State.lifecycleBits (s : State) : Word :=
  bitAt 0 s.busy ||| bitAt 1 s.done ||| bitAt 2 s.err ||| bitAt 3 s.drop |||
    fieldAt 4 (BitVec.ofNat 4 s.errCode.code) ||| fieldAt 16 s.lastOpc

/-- STATUS (R26). -/
def State.status (s : State) : Word := s.lifecycleBits ||| s.validityBits

/-- The interrupt output `irq` (R47, R199). -/
def State.irq (s : State) : Bool :=
  (s.done && s.intEn[0]) || (s.err && s.intEn[1]) || (s.drop && s.intEn[2])

/-- INT_EN (R28). -/
def State.intEnWord (s : State) : Word := s.intEn.setWidth 32

/-- TREE (R29). -/
def State.treeWord (s : State) : Word := fieldAt 0 s.root ||| fieldAt 16 s.nodeCount

/-- PQINFO.PQ_SIZE (R30, R41). -/
def State.pqSize (s : State) : Nat := s.pq.length

/-- PQINFO (R30). -/
def State.pqInfo (s : State) : Word := fieldAt 0 (BitVec.ofNat 9 s.pqSize) ||| fieldAt 16 s.leafCount

/-- ERRINFO (R31). -/
def State.errInfoWord (s : State) : Word :=
  fieldAt 0 (BitVec.ofNat 4 s.errInfo.port.num) ||| fieldAt 8 s.errInfo.phaseOpc

/-- PARAM (R33). -/
def State.paramWord (s : State) : Word :=
  fieldAt 0 (BitVec.ofNat 8 s.params.wCount) ||| fieldAt 8 (BitVec.ofNat 10 Config.nodeCap) |||
    fieldAt 18 (BitVec.ofNat 9 Config.codeMax)

/-- TBL_ADDR (R34). -/
def State.tblAddrWord (s : State) : Word :=
  fieldAt 0 s.tblAddr.index ||| fieldAt 16 s.tblAddr.word ||| fieldAt 28 s.tblAddr.table

end Sys2Proof.Machine
end

