-- ==== Sys2Proof/Machine/Ops.lean ====
section
/-! DEFINITION. The named operations every command shares: the tables, the life of a command (acceptance, `done`, a dropped
write), ERROR ENTRY `raise` and the return from it (spec/60_exceptions.md R191 to R198), and the effect of reset
(spec/70_reset_and_hazards.md R220, R221). -/

namespace Sys2Proof.Machine

/-! ## Tables -/

/-- `NODE[i]` (R38). An index outside the pool, which no run reaches, reads a free value (log entry 11). -/
def State.nodeAt (s : State) (i : NodeIdx) : Node :=
  if h : i.toNat < 513 then s.node[i.toNat] else Config.freeNode i

/-- `NODE[i] <- n` (R38). -/
def State.setNode (s : State) (i : NodeIdx) (n : Node) : State :=
  { s with node := s.node.setIfInBounds i.toNat n }

/-- `FREQ[b]` (R37). -/
def State.freqOf (s : State) (b : Byte) : Word := s.freq[b.toNat]

/-- `FREQ[b] <- v` (R37). -/
def State.setFreq (s : State) (b : Byte) (v : Word) : State := { s with freq := s.freq.set b.toNat v }

/-- `CT[b]` of a byte (R42). -/
def State.codeOf (s : State) (b : Byte) : Bits := s.ct[b.toNat]'(by omega)

/-- `CT[256]`, the sentinel's code (R42). -/
def State.eofCode (s : State) : Bits := s.ct[Config.eofSym]

/-! ## Unspecified contents -/

/-- Contents of FREQ that the spec leaves unspecified: a free value of `W_COUNT`-bit counts (R37, R194). -/
def State.freqUnspecified (s : State) : State :=
  { s with
    freq := (Config.freeFreq s.draws).map fun c => BitVec.ofNat 32 (c.toNat % 2 ^ s.params.wCount)
    draws := s.draws + 1 }

/-- Contents of the node pool that the spec leaves unspecified: a free value (R38, R143, R194). -/
def State.nodeUnspecified (s : State) : State :=
  { s with node := Config.freeNodes s.draws, draws := s.draws + 1 }

/-- Contents of the code table that the spec leaves unspecified: a free value of codes of at most `CODE_MAX` bits (R42). -/
def State.ctUnspecified (s : State) : State :=
  { s with ct := (Config.freeCodes s.draws).map (·.take Config.codeMax), draws := s.draws + 1 }

/-! ## The life of a command -/

/-- Acceptance of command word `w` (R191), up to the legality check and the body; `k` is where the engine starts. -/
def accept (w : Word) (k : Work) (s : State) : State :=
  { s with
    lastOpc := w.extractLsb' 0 8
    done := false, err := false, errCode := .none, errInfo := ⟨.none, 0⟩, eosSeen := false
    symIn := 0, bitsOut := 0, bitsIn := 0, bytesOut := 0, hdrBits := 0
    phase := .busy (w.extractLsb' 0 8), work := k, todo := [] }

/-- Successful completion, `done` (R192); the hidden working state is discarded. -/
def complete (s : State) : State :=
  { s with phase := .idle, work := .none, todo := [], done := true }

/-- The body of `i` begins: as a command, or as a phase of a composite command, `PHASE <- BUSY(op)` (R182, R183). -/
def beginPhase (i : Instr) (rest : List Instr) (s : State) : State :=
  { s with phase := .busy (opcOf i), work := .start i, todo := rest }

/-- The `done` of a body: it ends the command (R192), or continues a composite command with its next phase (R182, R183). -/
def phaseDone (s : State) : State :=
  match s.todo with
  | [] => complete s
  | i :: rest => beginPhase i rest s

/-- The table that a failing command has begun to fill has unspecified contents (R194): FREQ for COUNT (R100), the node pool for
RDHDR (R143). -/
def spoil (s : State) : State :=
  match s.work with
  | .countRead => s.freqUnspecified
  | .getMagic => s.nodeUnspecified
  | .getToken _ => s.nodeUnspecified
  | .getValue _ _ => s.nodeUnspecified
  | _ => s

/-- The opcode of the phase that is running (R193). -/
def State.phaseOpc (s : State) : Byte :=
  match s.phase with
  | .idle => 0
  | .busy op => op

/-- ERROR ENTRY, `raise e(PORT = q)` (R193): the one operation by which every command takes an error. The command stops, the code,
the port and the phase's opcode are recorded, ERR and DONE are set, the sequencer is IDLE; nothing is saved and there is no vector. -/
def raise (e : ErrCode) (q : PortId) (s : State) : State :=
  { spoil s with
    errCode := e, errInfo := ⟨q, s.phaseOpc⟩, err := true, done := true
    phase := .idle, work := .none, todo := [] }

/-- RETURN from an error or a completion (R197): a host write of `w` to STATUS clears each of DONE, ERR and DROP whose bit is 1
in `w`; clearing ERR also clears ERRCODE and ERRINFO (R26). Nothing is restored, because nothing was saved. -/
def acknowledge (w : Word) (s : State) : State :=
  { s with
    done := s.done && !w[1]
    err := s.err && !w[2]
    drop := s.drop && !w[3]
    errCode := if w[2] then .none else s.errCode
    errInfo := if w[2] then ⟨.none, 0⟩ else s.errInfo }

/-- A COMMAND write while BUSY is dropped (R198). -/
def dropCommand (s : State) : State := { s with drop := true }

/-- An illegal command word: acceptance, then ILLEGAL_COMMAND before any table, flag or port is touched (R82, R191, R195). -/
def illegalCommand (w : Word) (s : State) : State := raise .illegalCommand .none (accept w .none s)

/-! ## Reset -/

/-- Reset asserted: a running command is abandoned without DONE or ERR, and the collaborators' positions and contents are then
unspecified (R221), free values; what they answer next is not changed. -/
def assertReset (s : State) : State :=
  match s.phase with
  | .idle => { s with resetLine := true }
  | .busy _ =>
    { s with
      resetLine := true, phase := .idle, work := .none, todo := []
      src := { s.src with data := Config.freeBytes s.draws, pos := Config.freeNat s.draws }
      bsnk := { s.bsnk with bits := Config.freeBits s.draws }
      bsrc := { s.bsrc with bits := Config.freeBits (s.draws + 1), pos := Config.freeNat (s.draws + 1) }
      bysnk := { s.bysnk with bytes := Config.freeBytes (s.draws + 1) }
      draws := s.draws + 2 }

/-- Every register of the block at its reset value (R46), the environment and the tables as they are. -/
def resetRegisters (s : State) : State :=
  { State.reset with
    freq := s.freq, node := s.node, ct := s.ct, params := s.params
    src := s.src, bsnk := s.bsnk, bsrc := s.bsrc, bysnk := s.bysnk
    host := s.host, reads := s.reads, sched := s.sched, draws := s.draws }

/-- Reset released: every register and field takes its reset value, and FREQ, NODE and CT are unspecified with their validity flags
0 (R220). Releasing a line that is not asserted does nothing. -/
def releaseReset (s : State) : State :=
  if s.resetLine then (resetRegisters s).freqUnspecified.nodeUnspecified.ctUnspecified else s

end Sys2Proof.Machine
end

