-- ==== Sys2Proof/Machine/Operands.lean ====
section
/-! DEFINITION. The operands of the commands: the four stream ports (spec/20_memory.md R62 to R66) and the port procedures `put`,
`emit` and `get` (spec/44_header_codec.md R140, R142, spec/45_body_codec.md R160). A command has no other operand (R80). -/

namespace Sys2Proof.Machine

/-- A collaborator's response to a read (R62); `silent` is no response. -/
inductive Response (α : Type) where
  | data (v : α)
  | eos
  | ioerr
  | silent
deriving DecidableEq, Repr

/-- A collaborator's response to a write or a rewind (R62); `silent` is no response. -/
inductive WriteResponse where
  | ok
  | ioerr
  | silent
deriving DecidableEq, Repr

/-- How the next transaction of a port is answered: by the head of its list, with `answer` when the list is empty (R62). -/
def nextReply (rs : List Reply) : Reply := rs.headD .answer

/-! ## SRC -/

/-- `SrcRead8()` (R63). After an `IOERR` whether the byte was consumed is a free value (D44). -/
def srcRead (s : State) : Response Byte × State :=
  match nextReply s.src.replies with
  | .silent => (.silent, s)
  | .ioerr =>
    (.ioerr, { s with
      src := ⟨s.src.data, s.src.pos + Config.freeNat s.draws % (min 1 (s.src.data.length - s.src.pos) + 1),
        s.src.replies.tail⟩
      draws := s.draws + 1 })
  | .answer =>
    match s.src.data[s.src.pos]? with
    | some b => (.data b, { s with src := ⟨s.src.data, s.src.pos + 1, s.src.replies.tail⟩ })
    | none => (.eos, { s with src := ⟨s.src.data, s.src.pos, s.src.replies.tail⟩ })

/-- `SrcRewind()` (R63). After an `IOERR` the position is a free value within the input (D44). -/
def srcRewind (s : State) : WriteResponse × State :=
  match nextReply s.src.replies with
  | .silent => (.silent, s)
  | .ioerr =>
    (.ioerr, { s with
      src := ⟨s.src.data, Config.freeNat s.draws % (s.src.data.length + 1), s.src.replies.tail⟩
      draws := s.draws + 1 })
  | .answer => (.ok, { s with src := ⟨s.src.data, 0, s.src.replies.tail⟩ })

/-! ## BSNK -/

/-- `SinkWrite(n, v)` with `c = bits_n(v)` (R64). After an `IOERR` how many of the bits were appended is a free value. -/
def sinkWrite (c : Bits) (s : State) : WriteResponse × State :=
  match nextReply s.bsnk.replies with
  | .silent => (.silent, s)
  | .ioerr =>
    (.ioerr, { s with
      bsnk := ⟨s.bsnk.bits ++ c.take (Config.freeNat s.draws % (c.length + 1)), s.bsnk.replies.tail⟩
      draws := s.draws + 1 })
  | .answer => (.ok, { s with bsnk := ⟨s.bsnk.bits ++ c, s.bsnk.replies.tail⟩ })

/-! ## BSRC -/

/-- The bits of BSRC that are not read yet (R65). -/
def State.bsrcRest (s : State) : Bits := s.bsrc.bits.drop s.bsrc.pos

/-- `BitRead(n)` (R65). Whether an `EOS` consumed the remaining bits is a free value (I3), and so is how many bits an `IOERR`
consumed (D44). -/
def bitRead (n : Nat) (s : State) : Response Nat × State :=
  match nextReply s.bsrc.replies with
  | .silent => (.silent, s)
  | .ioerr =>
    (.ioerr, { s with
      bsrc := ⟨s.bsrc.bits, s.bsrc.pos + Config.freeNat s.draws % (min n s.bsrcRest.length + 1),
        s.bsrc.replies.tail⟩
      draws := s.draws + 1 })
  | .answer =>
    if n ≤ s.bsrcRest.length then
      (.data (num (s.bsrcRest.take n)), { s with bsrc := ⟨s.bsrc.bits, s.bsrc.pos + n, s.bsrc.replies.tail⟩ })
    else
      (.eos, { s with
        bsrc := ⟨s.bsrc.bits, if Config.freeNat s.draws % 2 = 1 then s.bsrc.bits.length else s.bsrc.pos,
          s.bsrc.replies.tail⟩
        draws := s.draws + 1 })

/-! ## BYSNK -/

/-- `ByteWrite(v)` (R66). After an `IOERR` whether the byte was appended is a free value (I2). -/
def byteWrite (v : Byte) (s : State) : WriteResponse × State :=
  match nextReply s.bysnk.replies with
  | .silent => (.silent, s)
  | .ioerr =>
    (.ioerr, { s with
      bysnk := ⟨s.bysnk.bytes ++ [v].take (Config.freeNat s.draws % 2), s.bysnk.replies.tail⟩
      draws := s.draws + 1 })
  | .answer => (.ok, { s with bysnk := ⟨s.bysnk.bytes ++ [v], s.bysnk.replies.tail⟩ })

/-! ## Port procedures -/

/-- What a port procedure leaves: `go` on with the command, or `stop` here (an error was raised, or there is no response and the
command waits at the same transaction). -/
inductive Ported (α : Type) where
  | go (v : α) (s : State)
  | stop (s : State)
deriving DecidableEq, Repr

/-- `put(n, v)` with `c = bits_n(v)` (R140): one BSNK transaction, counted in BITS_OUT when it is answered `OK`. -/
def put (c : Bits) (s : State) : Ported Unit :=
  match sinkWrite c s with
  | (.ok, s') => .go () { s' with bitsOut := s'.bitsOut + BitVec.ofNat 64 c.length }
  | (.ioerr, s') => .stop (raise .upstreamIo .bsnk s')
  | (.silent, s') => .stop s'

/-- How many bits of an emitted code the transactions before the one answered `IOERR` wrote: a free value below the code's length,
since the grouping of a code into transactions is not fixed (R9, R160; I1). -/
def emitDone (c : Bits) (s : State) : Nat := Config.freeNat s.draws % c.length

/-- How many bits the failing transaction of an emitted code appended: a free value, at most the 32 bits a `SinkWrite` can hold and
the bits left (R64; I2). -/
def emitPartial (c : Bits) (s : State) : Nat :=
  Config.freeNat (s.draws + 1) % (min 32 (c.length - emitDone c s) + 1)

/-- `emit(c)` (R160): `out <- out · c`, answered as a whole; BITS_OUT counts the bits of the transactions answered `OK`. -/
def emit (c : Bits) (s : State) : Ported Unit :=
  match nextReply s.bsnk.replies with
  | .silent => .stop s
  | .ioerr =>
    .stop (raise .upstreamIo .bsnk { s with
      bsnk := ⟨s.bsnk.bits ++ c.take (emitDone c s + emitPartial c s), s.bsnk.replies.tail⟩
      bitsOut := s.bitsOut + BitVec.ofNat 64 (emitDone c s)
      draws := s.draws + 2 })
  | .answer =>
    .go () { s with
      bsnk := ⟨s.bsnk.bits ++ c, s.bsnk.replies.tail⟩
      bitsOut := s.bitsOut + BitVec.ofNat 64 c.length }

/-- `get(n, e)` (R142): one BSRC transaction, counted in BITS_IN when it is answered `DATA`; `e` is the error on `EOS`. -/
def get (n : Nat) (e : ErrCode) (s : State) : Ported Nat :=
  match bitRead n s with
  | (.data v, s') => .go v { s' with bitsIn := s'.bitsIn + BitVec.ofNat 64 n }
  | (.eos, s') => .stop (raise e .bsrc s')
  | (.ioerr, s') => .stop (raise .upstreamIo .bsrc s')
  | (.silent, s') => .stop s'

/-- The port whose response the engine awaits at `k` (R62); `none` where the next piece of work uses no port. -/
def Work.port : Work → PortId
  | .none => .none
  | .start _ => .none
  | .countRead => .src
  | .putMagic => .bsnk
  | .putFlag [] => .none
  | .putFlag (_ :: _) => .bsnk
  | .putValue [] => .none
  | .putValue (_ :: _) => .bsnk
  | .getMagic => .bsrc
  | .getToken _ => .bsrc
  | .getValue _ _ => .bsrc
  | .rewind => .src
  | .encodeRead => .src
  | .emit _ _ => .bsnk
  | .decodeBit _ => .bsrc
  | .decodeByte _ => .bysnk

/-- How the collaborator behind a port answers its next transaction. -/
def State.replyAt (s : State) : PortId → Reply
  | .none => .answer
  | .src => nextReply s.src.replies
  | .bsnk => nextReply s.bsnk.replies
  | .bsrc => nextReply s.bsrc.replies
  | .bysnk => nextReply s.bysnk.replies

/-- The engine waits for a collaborator that does not respond (R62). -/
def State.waiting (s : State) : Bool := decide (s.replyAt s.work.port = .silent)

end Sys2Proof.Machine
end

