-- ==== Sys2Proof/Machine/BodyCodec.lean ====
section
/-! DEFINITION. The Body Codec (spec/45_body_codec.md): the bodies of ENCODE and DECODE, one port transaction at a time. -/

namespace Sys2Proof.Machine

/-! ## Encoder -/

/-- ENCODE (R161): SEQUENCE before the rewind. -/
def encodeStart (s : State) : State :=
  if s.codesValid then { s with work := .rewind } else raise .sequence .none s

/-- ENCODE's `SrcRewind` (R161). -/
def rewindTick (s : State) : State :=
  match srcRewind s with
  | (.ok, s) => { s with work := .encodeRead }
  | (.ioerr, s) => raise .upstreamIo .src s
  | (.silent, s) => s

/-- ENCODE goes on to emit code `c`; an empty code raises MISSING_CODE before any bit of it is written (R161, D38). -/
def emitCode (c : Bits) (last : Bool) (s : State) : State :=
  if c.isEmpty then raise .missingCode .none s else { s with work := .emit c last }

/-- One pass of ENCODE's loop (R161): the next byte's code, or at the end of the input the sentinel's. -/
def encodeReadTick (s : State) : State :=
  match srcRead s with
  | (.data b, s) => emitCode (s.codeOf b) false { s with symIn := s.symIn + 1 }
  | (.eos, s) => emitCode s.eofCode true s
  | (.ioerr, s) => raise .upstreamIo .src s
  | (.silent, s) => s

/-- `emit(c)` in ENCODE (R160, R161): after the sentinel's code ENCODE is done. -/
def emitTick (c : Bits) (last : Bool) (s : State) : State :=
  match emit c s with
  | .go _ s => if last then phaseDone s else { s with work := .encodeRead }
  | .stop s => s

/-! ## Decoder -/

/-- DECODE (R163): SEQUENCE, then DEGENERATE_TREE, before any port is used. -/
def decodeStart (s : State) : State :=
  if !s.treeValid then raise .sequence .none s
  else if (s.nodeAt s.root).isLeaf then raise .degenerateTree .none s
  else { s with work := .decodeBit s.root }

/-- One step of the decode walk (R162): bit 0 moves left, 1 right. -/
def State.descend (s : State) (p : NodeIdx) (bit : Nat) : NodeIdx :=
  if bit = 0 then (s.nodeAt p).left else (s.nodeAt p).right

/-- The traversal pointer has moved to `p` (R163): at an internal node the walk goes on; at the sentinel DECODE is done; at another leaf
the byte `value[7:0]` is to be written. -/
def arrive (p : NodeIdx) (s : State) : State :=
  let n := s.nodeAt p
  if !n.isLeaf then { s with work := .decodeBit p }
  else if n.value.toNat = Config.eofSym then phaseDone { s with eosSeen := true }
  else { s with work := .decodeByte (n.value.setWidth 8) }

/-- One pass of DECODE's loop up to the byte write (R163). -/
def decodeBitTick (p : NodeIdx) (s : State) : State :=
  match get 1 .truncatedBody s with
  | .go r s => arrive (s.descend p r) s
  | .stop s => s

/-- DECODE's `ByteWrite` (R163): then the walk starts again at the root. -/
def decodeByteTick (v : Byte) (s : State) : State :=
  match byteWrite v s with
  | (.ok, s) => { s with bytesOut := s.bytesOut + 1, work := .decodeBit s.root }
  | (.ioerr, s) => raise .upstreamIo .bysnk s
  | (.silent, s) => s

end Sys2Proof.Machine
end

