-- ==== Sys2Proof/Machine/CodeTable.lean ====
section
/-! DEFINITION. The Code Table Generator (spec/43_code_table.md): the code walk and the body of GENCODES. It uses no port. -/

namespace Sys2Proof.Machine

/-- `CT[v] <- p` for a leaf value; values 257 to 511 get no entry (R130). -/
def setCode (v : BitVec 10) (p : Bits) (ct : Vector Bits 257) : Vector Bits 257 := ct.setIfInBounds v.toNat p

/-- `walk(i, p)` (R130) over the node pool `node`, left subtree before right; `k` bounds the depth, which is at most 256 in a tree of
513 nodes (R43, R118). -/
def walk (node : NodeIdx → Node) : Nat → NodeIdx → Bits → Vector Bits 257 → Vector Bits 257
  | 0, _, _, ct => ct
  | k + 1, i, p, ct =>
    let n := node i
    if n.isLeaf then setCode n.value p ct
    else walk node k n.right (p ++ [true]) (walk node k n.left (p ++ [false]) ct)

/-- The code table of the tree at ROOT (R131): every entry cleared, then the walk. -/
def State.generatedCodes (s : State) : Vector Bits 257 :=
  walk s.nodeAt (Config.codeMax + 1) s.root [] (Vector.replicate 257 [])

/-- GENCODES (R131): SEQUENCE, then DEGENERATE_TREE, before anything is cleared. -/
def gencodesStart (s : State) : State :=
  if !s.treeValid then raise .sequence .none s
  else if (s.nodeAt s.root).isLeaf then raise .degenerateTree .none s
  else phaseDone { s with ct := s.generatedCodes, codesValid := true }

end Sys2Proof.Machine
end

