-- ==== Sys2Proof/Machine/Frequency.lean ====
section
/-! DEFINITION. The Frequency Table Builder (spec/41_frequency.md): the body of COUNT, one `SrcRead8` at a time. -/

namespace Sys2Proof.Machine

/-- COUNT's body up to its first read (R100): the flags of the tables it overwrites or makes stale are cleared, FREQ is zeroed. -/
def countStart (s : State) : State :=
  { s with
    freqValid := false, pqActive := false, treeValid := false, codesValid := false
    freq := Vector.replicate 256 0, work := .countRead }

/-- `2^W_COUNT - 1`, the most a frequency counter holds (R100). -/
def State.countMax (s : State) : Nat := 2 ^ s.params.wCount - 1

/-- COUNT takes byte `b` (R100): SYM_IN counts it; its counter is incremented, or COUNT_OVERFLOW is raised. -/
def countByte (b : Byte) (s : State) : State :=
  let s := { s with symIn := s.symIn + 1 }
  if (s.freqOf b).toNat = s.countMax then raise .countOverflow .none s else s.setFreq b (s.freqOf b + 1)

/-- One pass of COUNT's loop (R100). -/
def countTick (s : State) : State :=
  match srcRead s with
  | (.data b, s) => countByte b s
  | (.eos, s) => phaseDone { s with freqValid := true }
  | (.ioerr, s) => raise .upstreamIo .src s
  | (.silent, s) => s

end Sys2Proof.Machine
end

