-- ==== Sys2Proof/Machine/HeaderCodec.lean ====
section
/-! DEFINITION. The Header Codec (spec/44_header_codec.md): the serializer of WRHDR, the deserializer of RDHDR, and the wire tokens
MAGIC, INTERNAL and LEAF as the deserializer executes them. -/

namespace Sys2Proof.Machine

/-! ## Serializer -/

/-- WRHDR (R141): SEQUENCE before any port is used. -/
def wrhdrStart (s : State) : State :=
  if s.treeValid then { s with work := .putMagic } else raise .sequence .none s

/-- `put(32, MAGIC_TREE)` (R141). -/
def putMagicTick (s : State) : State :=
  match put (bitsN 32 Config.magicTree.toNat) s with
  | .go _ s => { s with work := .putFlag [s.root] }
  | .stop s => s

/-- The serializer goes on with the subtrees still to write, or WRHDR ends (R140, R141). -/
def serNext (stack : List NodeIdx) (s : State) : State :=
  match stack with
  | [] => phaseDone s
  | _ :: _ => { s with work := .putFlag stack }

/-- `ser(i)` up to the flag bit (R140): `1` for a leaf, whose value follows; `0` for an internal node, whose left and then right
subtrees follow. -/
def putFlagTick (stack : List NodeIdx) (s : State) : State :=
  match stack with
  | [] => phaseDone s
  | i :: rest =>
    let n := s.nodeAt i
    match put [n.isLeaf] s with
    | .go _ s =>
      let s := { s with hdrBits := s.hdrBits + 1 }
      if n.isLeaf then { s with work := .putValue (i :: rest) } else serNext (n.left :: n.right :: rest) s
    | .stop s => s

/-- `put(9, NODE[i].value[8:0])` (R140). -/
def putValueTick (stack : List NodeIdx) (s : State) : State :=
  match stack with
  | [] => phaseDone s
  | i :: rest =>
    match put (bitsN 9 (s.nodeAt i).value.toNat) s with
    | .go _ s => serNext rest { s with hdrBits := s.hdrBits + 9 }
    | .stop s => s

/-! ## Deserializer -/

/-- RDHDR's body up to its first read (R143). -/
def rdhdrStart (s : State) : State :=
  { s with
    pqActive := false, treeValid := false, codesValid := false
    pq := [], nodeCount := 0, leafCount := 0, root := Config.nil, work := .getMagic }

/-- The magic number is read and compared (R143). -/
def getMagicTick (s : State) : State :=
  match get 32 .formatMismatch s with
  | .go m s => if m = Config.magicTree.toNat then { s with work := .getToken [] } else raise .formatMismatch .none s
  | .stop s => s

/-- The flag bit of a token (R142): counted in HDR_BITS; the capacity check follows it. -/
def getFlag (s : State) : Ported Unit :=
  match get 1 .truncatedHeader s with
  | .go _ s =>
    let s := { s with hdrBits := s.hdrBits + 1 }
    if Config.nodeCap ≤ s.nodeCount.toNat then .stop (raise .treeCapacity .none s) else .go () s
  | .stop s => .stop s

/-- The subtree at `r` is complete (R142): it is the left child of the innermost pending node, or its right child, which completes
that node too, or the whole tree, which ends RDHDR's body (R143). -/
def closeSubtree (r : NodeIdx) : List Frame → State → State
  | [], s => phaseDone { s with root := r, treeValid := true, treeSrc := true }
  | ⟨i, none⟩ :: stack, s => { s with work := .getToken (⟨i, some r⟩ :: stack) }
  | ⟨i, some l⟩ :: stack, s => closeSubtree i stack (s.setNode i { s.nodeAt i with left := l, right := r })

/-- Token INTERNAL (R142): the next pool entry is an internal node, and its left subtree is awaited. DEDUCED: the list of pending
subtrees has no bound of its own, so 513 INTERNAL tokens leave 513 pending before TREE_CAPACITY, as R142's `parse` has it, where R43 gives
the stack at most 256 entries (log entry 21). -/
def internalToken (stack : List Frame) (s : State) : State :=
  match getFlag s with
  | .go _ s =>
    { s.setNode s.nodeCount ⟨false, Config.internalValue, 0, Config.nil, Config.nil⟩ with
      nodeCount := s.nodeCount + 1, work := .getToken (⟨s.nodeCount, none⟩ :: stack) }
  | .stop s => s

/-- The nine value bits `v` of the leaf allocated at `i` (R142). -/
def leafValue (v : Nat) (i : NodeIdx) (stack : List Frame) (s : State) : State :=
  match get 9 .truncatedHeader s with
  | .go _ s =>
    closeSubtree i stack
      ({ s with hdrBits := s.hdrBits + 9, leafCount := s.leafCount + 1 }.setNode i
        ⟨true, BitVec.ofNat 10 (v % 512), 0, Config.nil, Config.nil⟩)
  | .stop s => s

/-- Token LEAF of value `v` (R142): the next pool entry is allocated after the flag bit, and filled after the value bits. -/
def leafToken (v : Nat) (stack : List Frame) (s : State) : State :=
  match getFlag s with
  | .go _ s => leafValue v s.nodeCount stack { s with nodeCount := s.nodeCount + 1, work := .getValue s.nodeCount stack }
  | .stop s => s

/-- The number the next nine bits of BSRC make (R90). -/
def State.nextValue (s : State) : Nat := num (s.bsrcRest.take 9)

/-- The deserializer at a token (R142): the flag bit tells which one (R89). With no bit left, or no value bits left, the reads of the
token raise the error. -/
def getTokenTick (stack : List Frame) (s : State) : State :=
  match s.bsrcRest with
  | true :: p => leafToken (num (p.take 9)) stack s
  | _ => internalToken stack s

/-! ## Wire tokens as instructions -/

/-- The wire token the deserializer is at, decoded from BSRC; `none` where it is at none or the bits are not a whole token. -/
def State.awaitedToken (s : State) : Option Instr :=
  match s.work with
  | .getMagic => (decodeAt .preamble s.bsrcRest).toOption.map Prod.fst
  | .getToken _ => (decodeAt .tree s.bsrcRest).toOption.map Prod.fst
  | _ => none

/-- The pending subtrees of the deserializer. -/
def State.pending (s : State) : List Frame :=
  match s.work with
  | .getToken stack => stack
  | _ => []

/-- `MAGIC` (R87, R143). -/
def execMagic (s : State) : Host.Outcome State Fault Refusal :=
  if s.awaitedToken = some .magic then .next (getMagicTick s) else .fault .tokenNotAwaited

/-- `INTERNAL` (R88, R142). -/
def execInternal (s : State) : Host.Outcome State Fault Refusal :=
  if s.awaitedToken = some .internal then .next (internalToken s.pending s) else .fault .tokenNotAwaited

/-- `LEAF` (R88, R90, R142). -/
def execLeaf (value : Nat) (s : State) : Host.Outcome State Fault Refusal :=
  if s.awaitedToken = some (.leaf value) then .next (leafToken value s.pending s) else .fault .tokenNotAwaited

end Sys2Proof.Machine
end

