-- ==== Sys2Proof/Machine/TreeBuilder.lean ====
section
/-! DEFINITION. The Huffman Tree Builder (spec/42_tree_builder.md): the priority queue, the merge, and the bodies of BUILD_INIT,
BUILD_MERGE and BUILD. None of them uses a port. -/

namespace Sys2Proof.Machine

/-! ## The priority queue -/

/-- `key(i) < key(j)` (R110): weights first, then node indices, as unsigned numbers. -/
def State.keyLess (s : State) (i j : NodeIdx) : Bool :=
  decide ((s.nodeAt i).weight < (s.nodeAt j).weight ∨
    ((s.nodeAt i).weight = (s.nodeAt j).weight ∧ i < j))

/-- A set of node indices with `i` added: ascending, no repeats (R41). -/
def insertIdx (i : NodeIdx) : List NodeIdx → List NodeIdx
  | [] => [i]
  | j :: t => if i < j then i :: j :: t else if i = j then j :: t else j :: insertIdx i t

/-- `pq_insert(i)` (R111). -/
def pqInsert (i : NodeIdx) (s : State) : State := { s with pq := insertIdx i s.pq }

/-- The index of least key among a list of node indices (R112). -/
def State.leastKey (s : State) : List NodeIdx → Option NodeIdx
  | [] => none
  | i :: t =>
    match s.leastKey t with
    | none => some i
    | some j => if s.keyLess j i then some j else some i

/-- `pq_extract_min()` (R112): the index of least key, taken out; `none` when the queue is empty, which no caller allows. -/
def pqExtractMin (s : State) : Option (NodeIdx × State) :=
  (s.leastKey s.pq).map fun i => (i, { s with pq := s.pq.erase i })

/-- Allocate the next free pool entry with contents `n` and queue it (R113, R114). -/
def allocQueued (n : Node) (s : State) : State :=
  pqInsert s.nodeCount { s.setNode s.nodeCount n with nodeCount := s.nodeCount + 1 }

/-- The internal node of children `a` (left) and `b` (right), its weight the sum of theirs (R113). -/
def State.mergedNode (s : State) (a b : NodeIdx) : Node :=
  ⟨false, Config.internalValue, (s.nodeAt a).weight + (s.nodeAt b).weight, a, b⟩

/-- `merge()` (R113): the two least keys out, the first the left child, their parent in. With fewer than two nodes queued, which no
caller allows, nothing is made. -/
def merge (s : State) : State :=
  match pqExtractMin s with
  | none => s
  | some (a, s) =>
    match pqExtractMin s with
    | none => s
    | some (b, s) => allocQueued (s.mergedNode a b) s

/-! ## Bodies -/

/-- `newleaf(v, w)` (R114). -/
def newLeaf (v : BitVec 10) (w : Weight) (s : State) : State :=
  allocQueued ⟨true, v, w, Config.nil, Config.nil⟩ s

/-- The leaf of byte `b` of count `f`, for `c = (f, b)`, if the count is not zero (R114). -/
def byteLeaf (s : State) (c : Word × Nat) : State :=
  if c.1 = 0 then s else newLeaf (BitVec.ofNat 10 c.2) (c.1.setWidth 41) s

/-- The leaves of the bytes in ascending order (R114). -/
def byteLeaves (s : State) : State := s.freq.toList.zipIdx.foldl byteLeaf s

/-- The placeholder leaf of value 0 and weight 0, for empty input only (R114, D12). -/
def placeholderLeaf (s : State) : State := if s.nodeCount = 0 then newLeaf 0 0 s else s

/-- BUILD_INIT's body from its second line, without its `done` (R114). -/
def buildInitBody (s : State) : State :=
  let s := { s with
    pqActive := false, treeValid := false, treeSrc := false, codesValid := false
    pq := [], nodeCount := 0, root := Config.nil }
  let s := newLeaf (BitVec.ofNat 10 Config.eofSym) 1 (placeholderLeaf (byteLeaves s))
  { s with leafCount := s.nodeCount.setWidth 9, pqActive := true }

/-- The end of a build (R115): when one node is left in the queue it is taken out as the root, and the tree is valid. -/
def latchRoot (s : State) : State :=
  if s.pq.length = 1 then
    match pqExtractMin s with
    | none => s
    | some (r, s) => { s with root := r, pqActive := false, treeValid := true, treeSrc := false }
  else s

/-- BUILD_MERGE's body from its second line, without its `done` (R115). -/
def buildMergeBody (s : State) : State := latchRoot (merge s)

/-- BUILD's loop `while PQ_ACTIVE = 1` (R116), at most `k` passes: each takes one node off the queue. -/
def buildLoop : Nat → State → State
  | 0, s => s
  | k + 1, s => if s.pqActive then buildLoop k (buildMergeBody s) else s

/-- BUILD's body from its second line, without its `done` (R116). -/
def buildBody (s : State) : State :=
  let s := buildInitBody s
  buildLoop s.pq.length s

/-- BUILD_INIT (R114). -/
def buildInitStart (s : State) : State :=
  if s.freqValid then phaseDone (buildInitBody s) else raise .sequence .none s

/-- BUILD_MERGE (R115). -/
def buildMergeStart (s : State) : State :=
  if s.pqActive then phaseDone (buildMergeBody s) else raise .sequence .none s

/-- BUILD (R116). -/
def buildStart (s : State) : State :=
  if s.freqValid then phaseDone (buildBody s) else raise .sequence .none s

end Sys2Proof.Machine
end

