-- ==== Sys2Proof/Machine/Engine.lean ====
section
/-! DEFINITION. The sequencer (spec/10_state.md R21): one piece of a command's work at a time, each at most one port transaction (a
LEAF token: its two), and a command run to its end. -/

namespace Sys2Proof.Machine

/-- CLEAR's body (R181); "FREQ, NODE and CT keep unspecified contents", free values. -/
def clearStart (s : State) : State :=
  phaseDone ({ s with
    freqValid := false, pqActive := false, treeValid := false, treeSrc := false, codesValid := false
    pq := [], nodeCount := 0, leafCount := 0, root := Config.nil }).freqUnspecified.nodeUnspecified.ctUnspecified

/-- The body of `i` begins. A composite command begins its first phase and has the others to do (R182, R183); a wire token has no
body and is never started. -/
def startBody (i : Instr) (s : State) : State :=
  match i with
  | .nop => phaseDone s
  | .clear => clearStart s
  | .count => countStart s
  | .buildInit => buildInitStart s
  | .buildMerge => buildMergeStart s
  | .build => buildStart s
  | .gencodes => gencodesStart s
  | .wrhdr => wrhdrStart s
  | .encode => encodeStart s
  | .compress => beginPhase .count [.build, .gencodes, .wrhdr, .encode] s
  | .rdhdr => rdhdrStart s
  | .decode => decodeStart s
  | .decompress => beginPhase .rdhdr [.decode] s
  | .magic => s
  | .internal => s
  | .leaf _ => s

/-- One piece of the running command's work. -/
def tick (s : State) : State :=
  match s.work with
  | .none => s
  | .start i => startBody i s
  | .countRead => countTick s
  | .putMagic => putMagicTick s
  | .putFlag stack => putFlagTick stack s
  | .putValue stack => putValueTick stack s
  | .getMagic => getMagicTick s
  | .getToken stack => getTokenTick stack s
  | .getValue i stack => leafValue s.nextValue i stack s
  | .rewind => rewindTick s
  | .encodeRead => encodeReadTick s
  | .emit c last => emitTick c last s
  | .decodeBit p => decodeBitTick p s
  | .decodeByte v => decodeByteTick v s

/-- Who moves next, and the state with that turn taken off the list: the engine where the list is empty. -/
def nextTurn (s : State) : Agent × State :=
  match s.sched with
  | [] => (.engine, s)
  | a :: r => (a, { s with sched := r })

/-- The running command goes on, for at most `k` pieces of work, until it ends, waits for a collaborator, or the host's turn comes. -/
def run : Nat → State → State
  | 0, s => s
  | k + 1, s =>
    if !s.busy || s.waiting then s
    else
      match nextTurn s with
      | (.engine, s) => run k (tick s)
      | (.host, _) => s

/-- More pieces of work than any command has whose transactions are answered: a header has at most 514 tokens, and each byte or bit of
input at most two (R230). A command not ended here stays BUSY and the next steps go on with it. -/
def State.workBound (s : State) : Nat := 4096 + 4 * s.src.data.length + 4 * s.bsrc.bits.length

/-- A host write of command `i` to COMMAND (R191): dropped while BUSY (R198), else accepted and run. -/
def runCommand (i : Instr) (s : State) : State :=
  if s.busy then dropCommand s else run s.workBound (accept (commandWord i) (.start i) s)

end Sys2Proof.Machine
end

