-- ==== Sys2Proof/Machine/Commands.lean ====
section
/-! DEFINITION. The meanings of the thirteen commands (spec/30_encoding.md R81): each is a host write of its word to COMMAND, that is
acceptance and the body its family file gives it. -/

namespace Sys2Proof.Machine

/-- `NOP` (R180). -/
def execNop (s : State) : Host.Outcome State Fault Refusal := .next (runCommand .nop s)

/-- `CLEAR` (R181). -/
def execClear (s : State) : Host.Outcome State Fault Refusal := .next (runCommand .clear s)

/-- `COUNT` (R100). -/
def execCount (s : State) : Host.Outcome State Fault Refusal := .next (runCommand .count s)

/-- `BUILD_INIT` (R114). -/
def execBuildInit (s : State) : Host.Outcome State Fault Refusal := .next (runCommand .buildInit s)

/-- `BUILD_MERGE` (R115). -/
def execBuildMerge (s : State) : Host.Outcome State Fault Refusal := .next (runCommand .buildMerge s)

/-- `BUILD` (R116). -/
def execBuild (s : State) : Host.Outcome State Fault Refusal := .next (runCommand .build s)

/-- `GENCODES` (R131). -/
def execGencodes (s : State) : Host.Outcome State Fault Refusal := .next (runCommand .gencodes s)

/-- `WRHDR` (R141). -/
def execWrhdr (s : State) : Host.Outcome State Fault Refusal := .next (runCommand .wrhdr s)

/-- `ENCODE` (R161). -/
def execEncode (s : State) : Host.Outcome State Fault Refusal := .next (runCommand .encode s)

/-- `COMPRESS` (R182). -/
def execCompress (s : State) : Host.Outcome State Fault Refusal := .next (runCommand .compress s)

/-- `RDHDR` (R143). -/
def execRdhdr (s : State) : Host.Outcome State Fault Refusal := .next (runCommand .rdhdr s)

/-- `DECODE` (R163). -/
def execDecode (s : State) : Host.Outcome State Fault Refusal := .next (runCommand .decode s)

/-- `DECOMPRESS` (R183). -/
def execDecompress (s : State) : Host.Outcome State Fault Refusal := .next (runCommand .decompress s)

end Sys2Proof.Machine
end

