-- ==== Sys2Proof/Machine/Window.lean ====
section
/-! DEFINITION. The register window and the table window (spec/10_state.md R22 to R36, spec/20_memory.md R60, R61, R70): what a host read
returns and what a host write does, COMMAND's apart. -/

namespace Sys2Proof.Machine

/-- The offset of COMMAND (R22). -/
def commandOffset : Nat := 0x08

/-- The offset of STATUS (R22). -/
def statusOffset : Nat := 0x0C

/-- The accesses this hardware defines: an aligned 32-bit word inside `0x00` to `0xFF` (R61). -/
def accessDefined (width addr : Nat) : Bool := decide (width = 32 ∧ addr % 4 = 0 ∧ addr < 256)

/-- Bit `j` of a word of path bits, most significant first (R35). -/
def packBits (p : Bits) : Word := BitVec.ofNat 32 (num ((p ++ List.replicate 32 false).take 32))

/-- A word of the FREQ table (R35). -/
def State.freqWord (s : State) (index word : Nat) : Word :=
  if h : index < 256 ∧ word = 0 then s.freq[index]'h.1 else 0

/-- A word of the NODE table (R35). -/
def State.nodeWord (s : State) (index : NodeIdx) (word : Nat) : Word :=
  let n := s.nodeAt index
  if s.nodeCount.toNat ≤ index.toNat then 0
  else
    match word with
    | 0 => bitAt 31 n.isLeaf ||| fieldAt 0 n.value
    | 1 => fieldAt 0 n.left ||| fieldAt 16 n.right
    | 2 => n.weight.extractLsb' 0 32
    | 3 => (n.weight.extractLsb' 32 9).setWidth 32
    | _ => 0

/-- A word of the CODE table (R35). -/
def State.codeWord (s : State) (index word : Nat) : Word :=
  if h : index < 257 then
    let c := s.ct[index]
    if word = 0 then BitVec.ofNat 32 c.length
    else if word ≤ 8 then packBits (c.drop (32 * (word - 1)))
    else 0
  else 0

/-- Whether TBL_DATA is specified for the table TBL_ADDR selects (R35); TABLE 3 always reads 0. -/
def State.tableValid (s : State) : Bool :=
  match s.tblAddr.table.toNat with
  | 0 => s.freqValid
  | 1 => s.treeValid || s.pqActive
  | 2 => s.codesValid
  | _ => true

/-- The word TBL_ADDR selects (R35). -/
def State.tableWord (s : State) : Word :=
  match s.tblAddr.table.toNat with
  | 0 => s.freqWord s.tblAddr.index.toNat s.tblAddr.word.toNat
  | 1 => s.nodeWord s.tblAddr.index s.tblAddr.word.toNat
  | 2 => s.codeWord s.tblAddr.index.toNat s.tblAddr.word.toNat
  | _ => 0

/-- A free value for a read the spec leaves unspecified (I6, I7). -/
def drawWord (s : State) : Word × State := (Config.freeWord s.draws, { s with draws := s.draws + 1 })

/-- A register that reads an unspecified value while BUSY (R225). -/
def readIdle (w : Word) (s : State) : Word × State := if s.busy then drawWord s else (w, s)

/-- STATUS (R26); while BUSY bits 13:8 read an unspecified value (R27). -/
def readStatus (s : State) : Word × State :=
  if s.busy then (s.lifecycleBits ||| (Config.freeWord s.draws &&& 0x3F00), { s with draws := s.draws + 1 })
  else (s.status, s)

/-- TBL_DATA (R35): unspecified while BUSY, and for a table whose flag is 0. -/
def readTblData (s : State) : Word × State :=
  if s.busy || !s.tableValid then drawWord s else (s.tableWord, s)

/-- A host read of the register at an aligned offset (R22). A read has no side effect (R70); the state changes only by the model's
count of free values. -/
def readReg (addr : Nat) (s : State) : Word × State :=
  match addr with
  | 0x00 => (Config.idWord, s)
  | 0x04 => (Config.magicTree, s)
  | 0x08 => (0, s)
  | 0x0C => readStatus s
  | 0x10 => (s.intEnWord, s)
  | 0x14 => readIdle s.treeWord s
  | 0x18 => readIdle s.pqInfo s
  | 0x1C => readIdle s.errInfoWord s
  | 0x20 => readIdle s.symIn s
  | 0x24 => readIdle (s.bitsOut.extractLsb' 0 32) s
  | 0x28 => readIdle (s.bitsOut.extractLsb' 32 32) s
  | 0x2C => readIdle (s.bitsIn.extractLsb' 0 32) s
  | 0x30 => readIdle (s.bitsIn.extractLsb' 32 32) s
  | 0x34 => readIdle s.bytesOut s
  | 0x38 => readIdle s.hdrBits s
  | 0x3C => (s.paramWord, s)
  | 0x40 => (s.tblAddrWord, s)
  | 0x44 => readTblData s
  | _ => (0, s)

/-- A host write to INT_EN: bits 31:3 are ignored (R28). -/
def writeIntEn (w : Word) (s : State) : State := { s with intEn := w.extractLsb' 0 3 }

/-- A host write to TBL_ADDR: the bits outside its fields are ignored (R34). -/
def writeTblAddr (w : Word) (s : State) : State :=
  { s with tblAddr := ⟨w.extractLsb' 0 10, w.extractLsb' 16 4, w.extractLsb' 28 2⟩ }

/-- A host write to the register at an aligned offset, COMMAND's apart: STATUS clears flags (R197), INT_EN and TBL_ADDR are replaced,
writes to read-only and reserved offsets are ignored (R36, R70). -/
def writeReg (addr : Nat) (w : Word) (s : State) : State :=
  match addr with
  | 0x0C => acknowledge w s
  | 0x10 => writeIntEn w s
  | 0x40 => writeTblAddr w s
  | _ => s

end Sys2Proof.Machine
end

