-- ==== Sys2Proof/Machine/Fetch.lean ====
section
/-! DEFINITION. What the machine does next: who moves (spec/00_scope.md R6, spec/20_memory.md R71), the instruction that is fetched (a
COMMAND write's word, or the wire token the deserializer is at), the host's accesses and the environment's statements. -/

namespace Sys2Proof.Machine

/-- What a step is. -/
inductive Action where
  /-- The instruction `i` is fetched; it runs from `s`. -/
  | run (i : Instr) (s : State)
  /-- Something else happens, and leaves `s`. -/
  | next (s : State)
  /-- The model has no step for it. -/
  | refuse (r : Refusal)
deriving DecidableEq, Repr

/-- The state with the host's first event taken off. -/
def popEvent (s : State) : State := { s with host := s.host.tail }

/-- A COMMAND write of word `w` (R25): dropped while BUSY (R198), ILLEGAL_COMMAND for a word that does not decode (R82), else the
command is fetched. -/
def commandWrite (w : Word) (s : State) : Action :=
  if s.busy then .next (dropCommand s)
  else
    match decodeCommand w with
    | .ok i => .run i s
    | .error _ => .next (illegalCommand w s)

/-- A register access is served, refused when this hardware does not define it (R61) or reset is asserted (R220). -/
def accessed (width addr : Nat) (s : State) (served : Action) : Action :=
  if s.resetLine then .refuse .accessInReset
  else if accessDefined width addr then served
  else .refuse .undefinedAccess

/-- A host read, whose value the host keeps (R84). -/
def hostRead (addr : Nat) (s : State) : State :=
  let (v, s) := readReg addr s
  { s with reads := (addr, v) :: s.reads }

/-- One round of `WAIT` (R85): a read of STATUS; while BUSY reads 1 the wait stays the host's next event. -/
def hostWait (s : State) : State :=
  let s' := hostRead statusOffset s
  if s.busy then s' else popEvent s'

/-- Another script of responses for the collaborator behind a port (R62). -/
def setReplies (port : PortId) (rs : List Reply) (s : State) : State :=
  match port with
  | .none => s
  | .src => { s with src := ⟨s.src.data, s.src.pos, rs⟩ }
  | .bsnk => { s with bsnk := ⟨s.bsnk.bits, rs⟩ }
  | .bsrc => { s with bsrc := ⟨s.bsrc.bits, s.bsrc.pos, rs⟩ }
  | .bysnk => { s with bysnk := ⟨s.bysnk.bytes, rs⟩ }

/-- The host or the environment moves: its first event happens. With none pending the block waits (R220). -/
def hostMove (s : State) : Action :=
  match s.host with
  | [] => .next s
  | .write width addr w :: _ =>
    accessed width addr s
      (if addr = commandOffset then commandWrite w (popEvent s) else .next (writeReg addr w (popEvent s)))
  | .read width addr :: _ => accessed width addr s (.next (hostRead addr (popEvent s)))
  | .wait :: _ => accessed 32 statusOffset s (.next (hostWait s))
  | .assertReset :: _ => .next (assertReset (popEvent s))
  | .releaseReset :: _ => .next (releaseReset (popEvent s))
  | .setSrc bytes :: _ => .next { popEvent s with src := ⟨bytes, 0, s.src.replies⟩ }
  | .setBsrc bits :: _ => .next { popEvent s with bsrc := ⟨bits, 0, s.bsrc.replies⟩ }
  | .clearBsnk :: _ => .next { popEvent s with bsnk := ⟨[], s.bsnk.replies⟩ }
  | .clearBysnk :: _ => .next { popEvent s with bysnk := ⟨[], s.bysnk.replies⟩ }
  | .setReplies port rs :: _ => .next (setReplies port rs (popEvent s))

/-- The engine moves: the wire token it is at is fetched, or it does its next piece of work. -/
def engineMove (s : State) : Action :=
  match s.awaitedToken with
  | some i => .run i s
  | none => .next (tick s)

/-- What happens next: while a command runs, the agent whose turn it is, but the host where the engine waits for a collaborator (R62);
while IDLE, the host. -/
def fetch (s : State) : Action :=
  if s.busy then
    match nextTurn s with
    | (.engine, s') => if s.waiting then hostMove s' else engineMove s'
    | (.host, s') => hostMove s'
  else hostMove s

/-- `s` with a host write of command word `w` as the next event, and the block IDLE and out of reset. -/
def placeCommand (w : Word) (s : State) : State :=
  { s with
    host := .write 32 commandOffset w :: s.host
    phase := .idle, work := .none, todo := [], resetLine := false }

/-- `s` with the deserializer of RDHDR at `k` and the bits `p` next on BSRC, answered, and the engine's turn. -/
def placeToken (k : Work) (p : Bits) (s : State) : State :=
  { s with
    bsrc := ⟨p, 0, []⟩
    phase := .busy (opcOf .rdhdr), work := k, todo := [], resetLine := false, sched := [] }

/-- `s` with the instruction whose bits are `w` where the next step fetches: 32 bits are the preamble of a stream when they are the
magic number, else a command word; a pattern of 1 bit and one of 10 bits (8 and 16 in whole bytes) are tree tokens. -/
def placeWord (s : State) (nbits w : Nat) : State :=
  if nbits = 1 ∨ nbits = 8 then placeToken (.getToken []) (bitsN 1 w) s
  else if nbits = 10 ∨ nbits = 16 then placeToken (.getToken []) (bitsN 10 w) s
  else if w = Config.magicTree.toNat then placeToken .getMagic (bitsN 32 w) s
  else placeCommand (BitVec.ofNat 32 w) s

end Sys2Proof.Machine
end

