-- ==== Sys2Proof/Machine/Script.lean ====
section
/-! DEFINITION. The pseudo-instructions of the host script notation as lists of host events (spec/30_encoding.md R84, R85). They are
notation for programs, not part of the hardware (D40). -/

namespace Sys2Proof.Machine.Script

/-- `WR <REG>, <value>`. -/
def wr (addr : Nat) (w : Word) : List HostEvent := [.write 32 addr w]

/-- `RD <REG>`. -/
def rd (addr : Nat) : List HostEvent := [.read 32 addr]

/-- `CMD <M>`. -/
def cmd (i : Instr) : List HostEvent := wr commandOffset (commandWord i)

/-- `CMD <M>.COUNT`: the word with the reserved header mode `01`. -/
def cmdCountMode (i : Instr) : List HostEvent := wr commandOffset (commandWord i ||| 0x100)

/-- `RUN <M>`: `CMD <M>` then `WAIT`. -/
def runCmd (i : Instr) : List HostEvent := cmd i ++ [.wait]

/-- `ACK`: clears DONE, ERR and DROP. -/
def ack : List HostEvent := wr statusOffset 0x0000000E

/-- The tables `TBL` names. -/
inductive Table where
  | freq
  | node
  | code
deriving DecidableEq, Repr

/-- The number of a table in TBL_ADDR. -/
def Table.num : Table → Nat
  | .freq => 0
  | .node => 1
  | .code => 2

/-- `TBL <T>, <i>, <k>`: select the table word, then read it. -/
def tbl (t : Table) (i k : Nat) : List HostEvent :=
  wr 0x40 (BitVec.ofNat 32 (t.num <<< 28 ||| k <<< 16 ||| i)) ++ rd 0x44

end Sys2Proof.Machine.Script
end

