-- ==== Sys2Proof/Safety.lean ====
section
/-! DEFINITION. The terms the statements are written in: when a command runs undisturbed, what a finished command leaves, the tree a
node pool holds, and the invariants of the machine. -/

namespace Sys2Proof.Machine

/-! ## When a command runs undisturbed -/

/-- The block is IDLE and the host lets the next command run to its end. -/
abbrev Ready (s : State) : Prop := s.phase = .idle ∧ s.sched = []

/-- A collaborator answers every transaction with `DATA`, `EOS` or `OK`. -/
abbrev Answers (rs : List Reply) : Prop := ∀ r ∈ rs, r = .answer

/-- A collaborator answers every transaction, `IOERR` allowed. -/
abbrev NeverSilent (rs : List Reply) : Prop := ∀ r ∈ rs, r ≠ .silent

/-- All four collaborators answer every transaction. -/
abbrev AllAnswered (s : State) : Prop :=
  NeverSilent s.src.replies ∧ NeverSilent s.bsnk.replies ∧ NeverSilent s.bsrc.replies ∧ NeverSilent s.bysnk.replies

/-- The next move is the host's: the block is IDLE, or a command runs and it is the host's turn, or the engine waits for a collaborator. -/
def HostTurn (s : State) : Prop := s.phase = .idle ∨ (nextTurn s).1 = .host ∨ s.waiting = true

/-- `s` with that turn taken. -/
def hostServed (s : State) : State :=
  match s.phase with
  | .idle => s
  | .busy _ => { s with sched := s.sched.tail }

/-! ## What a finished command leaves -/

/-- `s` after a command of opcode `opc` that changes nothing but what acceptance and `done` change (R191, R192). -/
def finished (opc : Byte) (s : State) : State :=
  { s with
    phase := .idle, work := .none, todo := []
    lastOpc := opc, done := true, err := false, errCode := .none, errInfo := ⟨.none, 0⟩, eosSeen := false
    symIn := 0, bitsOut := 0, bitsIn := 0, bytesOut := 0, hdrBits := 0 }

/-- `s` after a command of opcode `opc` that ends at once with error `e` of port `q` and changes nothing else (R191, R193). -/
def failed (opc : Byte) (e : ErrCode) (q : PortId) (s : State) : State :=
  { finished opc s with err := true, errCode := e, errInfo := ⟨q, opc⟩ }

/-- Instruction `i` executed `k` times in a row. -/
def execTimes (i : Instr) : Nat → State → Host.Outcome State Fault Refusal
  | 0, s => .next s
  | k + 1, s =>
    match exec i s with
    | .next s' => execTimes i k s'
    | .fault r => .fault r
    | .refused r => .refused r

/-! ## Trees -/

/-- A Huffman tree: leaves with their 10-bit value field, and internal nodes with two children. -/
inductive HTree where
  | leaf (value : BitVec 10)
  | node (l r : HTree)
deriving DecidableEq, Repr

/-- The number of nodes. -/
def HTree.size : HTree → Nat
  | .leaf _ => 1
  | .node l r => l.size + r.size + 1

/-- The number of leaves. -/
def HTree.leaves : HTree → Nat
  | .leaf _ => 1
  | .node l r => l.leaves + r.leaves

/-- The leaf values with their root-to-leaf paths, left to right. -/
def HTree.codes : HTree → List (BitVec 10 × Bits)
  | .leaf v => [(v, [])]
  | .node l r => l.codes.map (fun c => (c.1, false :: c.2)) ++ r.codes.map (fun c => (c.1, true :: c.2))

/-- The tree section: preorder, `0` for an internal node, `1` and nine value bits for a leaf (R88). -/
def HTree.wire : HTree → Bits
  | .leaf v => true :: bitsN 9 v.toNat
  | .node l r => false :: (l.wire ++ r.wire)

/-- The transactions that read the tree section, a list for each token in preorder, each transaction by its number of bits: the flag, and
a leaf's nine value bits (R142). -/
def HTree.reads : HTree → List (List Nat)
  | .leaf _ => [[1, 9]]
  | .node l r => [1] :: (l.reads ++ r.reads)

/-- How many bits transactions of these numbers of bits receive, one after another, from a stream with `n` bits left: those of all before
the first short read (R65, R145). -/
def bitsReceived : List Nat → Nat → Nat
  | [], _ => 0
  | k :: ks, n => if k ≤ n then k + bitsReceived ks (n - k) else 0

/-- The pool holds tree `t` at index `i`, at the indices `ids` in preorder. -/
inductive IsTree (pool : NodeIdx → Node) : NodeIdx → HTree → List NodeIdx → Prop where
  | leaf (i : NodeIdx) (v : BitVec 10) :
      (pool i).isLeaf = true → (pool i).value = v → IsTree pool i (.leaf v) [i]
  | node (i : NodeIdx) (l r : HTree) (il ir : List NodeIdx) :
      (pool i).isLeaf = false → IsTree pool (pool i).left l il → IsTree pool (pool i).right r ir →
      IsTree pool i (.node l r) (i :: (il ++ ir))

/-- The node pool holds tree `t` at ROOT with every allocated entry in it exactly once, and the tree registers fit it (R39). -/
structure HoldsTree (s : State) (t : HTree) : Prop where
  valid    : s.treeValid = true
  tree     : ∃ ids, IsTree s.nodeAt s.root t ids ∧ ids.Nodup ∧ ids.length = s.nodeCount.toNat ∧
               ∀ i ∈ ids, i.toNat < s.nodeCount.toNat
  capacity : s.nodeCount.toNat ≤ Config.nodeCap
  leafs    : s.leafCount.toNat = t.leaves

/-- The code the tree gives value `v`: the path of its rightmost leaf of that value, or no code (R130, R131). -/
def HTree.codeOf (t : HTree) (v : Nat) : Bits :=
  ((t.codes.filter fun c => c.1.toNat = v).getLast?.map Prod.snd).getD []

/-- The code table of a tree. -/
def HTree.codeTable (t : HTree) : Vector Bits 257 := Vector.ofFn fun v => t.codeOf v

/-- `key(i) < key(j)` written out (R110). -/
def KeyLt (s : State) (i j : NodeIdx) : Prop :=
  (s.nodeAt i).weight.toNat < (s.nodeAt j).weight.toNat ∨
    ((s.nodeAt i).weight.toNat = (s.nodeAt j).weight.toNat ∧ i.toNat < j.toNat)

/-- The leaves BUILD_INIT makes of FREQ, in order (R114). -/
def leavesOf (freq : Vector Word 256) : List Node :=
  let bytes := ((List.finRange 256).filter fun b : Fin 256 => freq[b] ≠ 0).map fun b : Fin 256 =>
    (⟨true, BitVec.ofNat 10 b.val, freq[b].setWidth 41, Config.nil, Config.nil⟩ : Node)
  (if bytes = [] then [⟨true, 0, 0, Config.nil, Config.nil⟩] else bytes) ++ [⟨true, 256, 1, Config.nil, Config.nil⟩]

/-- The node pool with its first entries replaced by `l`. -/
def overlay (l : List Node) (node : Vector Node 513) : Vector Node 513 :=
  Vector.ofFn fun i => (l[(i : Nat)]?).getD node[i]

/-- The total of all counts, `Σ_s FREQ[s]`. -/
def totalCount (freq : Vector Word 256) : Nat := (freq.toList.map BitVec.toNat).sum

/-! ## Invariants -/

/-- The engine is inside RDHDR's body. -/
def Work.inRdhdr : Work → Bool
  | .getMagic => true
  | .getToken _ => true
  | .getValue _ _ => true
  | _ => false

/-- The engine is inside a body that reads the tree: WRHDR's or DECODE's. -/
def Work.usesTree : Work → Bool
  | .putMagic => true
  | .putFlag _ => true
  | .putValue _ => true
  | .decodeBit _ => true
  | .decodeByte _ => true
  | _ => false

/-- The engine is inside ENCODE's body. -/
def Work.usesCodes : Work → Bool
  | .rewind => true
  | .encodeRead => true
  | .emit _ _ => true
  | _ => false

/-- The invariant of the sequencer and of STATUS (R21, R26, R27, R31, R44, R193). -/
structure LifecycleInv (s : State) : Prop where
  /-- PHASE is IDLE exactly when the engine has no work (R21). -/
  idleWork    : s.phase = .idle ↔ s.work = .none
  /-- While IDLE no phase of a composite command is pending. -/
  idleTodo    : s.phase = .idle → s.todo = []
  /-- While BUSY, DONE and ERR are 0 (R27). -/
  busyClear   : s.phase ≠ .idle → s.done = false ∧ s.err = false
  /-- ERRCODE is 0 exactly when ERR is 0 (R26). -/
  errCode     : s.errCode = .none ↔ s.err = false
  /-- ERRINFO is 0 when ERR is 0 (R31). -/
  errInfo     : s.err = false → s.errInfo = ⟨.none, 0⟩
  /-- At most one of PQ_ACTIVE and TREE_VALID is 1 (R44). -/
  oneTree     : ¬(s.pqActive = true ∧ s.treeValid = true)
  /-- PQ_ACTIVE implies PQ_SIZE ≥ 2 (R44). -/
  queueTwo    : s.pqActive = true → 2 ≤ s.pq.length
  /-- COUNT has cleared the flags of the tables it overwrites or makes stale (R44). -/
  countClear  : s.work = .countRead →
                  s.freqValid = false ∧ s.pqActive = false ∧ s.treeValid = false ∧ s.codesValid = false
  /-- RDHDR has cleared the flags of the tables it overwrites or makes stale (R44). -/
  rdhdrClear  : s.work.inRdhdr = true → s.pqActive = false ∧ s.treeValid = false ∧ s.codesValid = false
  /-- WRHDR and DECODE run only on a valid tree (R44). -/
  treeUsed    : s.work.usesTree = true → s.treeValid = true
  /-- ENCODE runs only on valid codes (R44). -/
  codesUsed   : s.work.usesCodes = true → s.codesValid = true
  /-- While reset is asserted no command runs (R220, R221). -/
  resetIdle   : s.resetLine = true → s.phase = .idle

/-- The list that stands for the set PQ (R41) is in the form the model gives it: ascending, no repeats (log entry 18). -/
def QueueCanonical (s : State) : Prop := s.pq.Pairwise (· < ·)

/-- Every code has at most `CODE_MAX` bits (R42). -/
def CodesBounded (s : State) : Prop := ∀ c ∈ s.ct.toList, c.length ≤ Config.codeMax

/-- The indices a list of pending subtrees of the deserializer holds, and how many leaves: each frame's internal node and, where it is
parsed, the frame's left subtree (R142). -/
inductive PendingIds (pool : NodeIdx → Node) : List Frame → List NodeIdx → Nat → Prop where
  | nil : PendingIds pool [] [] 0
  | first (i : NodeIdx) (st : List Frame) (ids : List NodeIdx) (k : Nat) :
      (pool i).isLeaf = false → PendingIds pool st ids k → PendingIds pool (⟨i, none⟩ :: st) (i :: ids) k
  | second (i l : NodeIdx) (t : HTree) (il ids : List NodeIdx) (st : List Frame) (k : Nat) :
      (pool i).isLeaf = false → IsTree pool l t il → PendingIds pool st ids k →
      PendingIds pool (⟨i, some l⟩ :: st) (i :: (il ++ ids)) (t.leaves + k)

/-- `ids` are all the allocated entries, each once. -/
def AllAllocated (s : State) (ids : List NodeIdx) : Prop :=
  ids.Nodup ∧ ids.length = s.nodeCount.toNat ∧ (∀ i ∈ ids, i.toNat < s.nodeCount.toNat) ∧
    s.nodeCount.toNat ≤ Config.nodeCap

/-- The queued nodes are the roots of disjoint trees that hold every allocated entry, and LEAF_COUNT their leaves (R113, R119). -/
def HoldsForest (s : State) : Prop :=
  ∃ forest : List (HTree × List NodeIdx),
    List.Forall₂ (fun i p => IsTree s.nodeAt i p.1 p.2) s.pq forest ∧
      AllAllocated s (forest.map Prod.snd).flatten ∧
      s.leafCount.toNat = (forest.map fun p => p.1.leaves).sum ∧ s.leafCount.toNat ≤ 257

/-- The invariant of the node pool: a valid tree is a tree (R39); a build in progress holds a forest; the deserializer's pending
subtrees hold every allocated entry; the decode walk stands at an internal node of the tree (R162). -/
structure PoolInv (s : State) : Prop where
  magic   : s.work = .getMagic → s.nodeCount = 0 ∧ s.leafCount = 0
  tree    : s.treeValid = true → ∃ t, HoldsTree s t
  forest  : s.pqActive = true → HoldsForest s ∧ s.pq.Pairwise (· < ·)
  pending : ∀ st, s.work = .getToken st →
              ∃ ids k, PendingIds s.nodeAt st ids k ∧ AllAllocated s ids ∧ s.leafCount.toNat = k
  value   : ∀ i st, s.work = .getValue i st →
              ∃ ids k, PendingIds s.nodeAt st ids k ∧ AllAllocated s (i :: ids) ∧ s.leafCount.toNat = k
  walk    : ∀ p, s.work = .decodeBit p →
              ∃ t ids, IsTree s.nodeAt s.root t ids ∧ p ∈ ids ∧ (s.nodeAt p).isLeaf = false
  bytes   : ∀ v, s.work = .decodeByte v → (s.nodeAt s.root).isLeaf = false

end Sys2Proof.Machine
end

