-- ==== Sys2Proof/Certificates/Slice0/Obligations.lean ====
section
/-! DEFINITION. The statements about HUFF-CORE, each formalising what the spec says. -/

open Sys2Proof Sys2Proof.Machine

/-! ## Encoding and decoding -/

/-- R81, R87, R88: a few words written out from the spec's encodings decode to the instruction they stand for. -/
def Obligations.SpecWordsDecode : Prop :=
  decodeCommand 0x00000000 = .ok .nop ∧ decodeCommand 0x00000002 = .ok .count ∧
    decodeCommand 0x00000004 = .ok .buildMerge ∧ decodeCommand 0x00000006 = .ok .gencodes ∧
    decodeCommand 0x00000007 = .ok .wrhdr ∧ decodeCommand 0x0000000C = .ok .decompress ∧
    decodeAt .preamble
      [true, true, true, true, true, false, true, false, true, true, false, false, true, true, true, false,
       true, false, false, false, false, false, true, false, false, false, false, false, false, false, false, true]
      = .ok (.magic, []) ∧
    decodeAt .tree [false, true] = .ok (.internal, [true]) ∧
    decodeAt .tree [true, false, false, true, false, false, false, false, false, true] = .ok (.leaf 65, [])

/-- R81, R87, R88, R90: decoding the encoding of any well-formed instruction, whatever follows it, gives the instruction back and what
follows. -/
def Obligations.DecodeOfEncodeIsTheInstruction : Prop :=
  ∀ i : Instr, WellFormed i → ∀ rest : Bits, decodeAt i.slot (encode i ++ rest) = .ok (i, rest)

/-- R81, R87, R88, R90: bits that decode are the encoding of the instruction they decode to, so each instruction has one encoding. -/
def Obligations.DecodedBitsAreTheEncoding : Prop :=
  ∀ (slot : Slot) (p rest : Bits) (i : Instr), decodeAt slot p = .ok (i, rest) →
    WellFormed i ∧ i.slot = slot ∧ p = encode i ++ rest

/-- R82, R191, R195: a command word is legal exactly when it is at most `0x0000000C`; an accepted illegal word raises ILLEGAL_COMMAND
with `PHASE_OPC = w[7:0]`, and no table, validity flag or port is touched. -/
def Obligations.IllegalWordsRaiseIllegalCommand : Prop :=
  (∀ w : Word, (∃ i, decodeCommand w = .ok i) ↔ w.toNat ≤ 0x0C) ∧
    ∀ (s : State) (w : Word) (rest : List HostEvent), s.phase = .idle → s.resetLine = false →
      s.host = .write 32 0x08 w :: rest → 0x0C < w.toNat →
      step s = .next { failed (w.extractLsb' 0 8) .illegalCommand .none s with host := rest }

/-! ## Stepping -/

/-- A step runs the decoded instruction. While IDLE a host write of a legal word to COMMAND starts the command it decodes to (R25, R191),
and the deserializer reads the tokens on BSRC (R142). That one step is `exec` of the whole command, from the state with the write
served, and that any other step of the engine is one piece of work, are the model's choice of steps (log entry 5); that a wire token is
an instruction with a step of its own is the model's choice too (log entry 15). -/
def Obligations.StepRunsTheDecodedInstruction : Prop :=
  (∀ (s : State) (w : Word) (rest : List HostEvent) (i : Instr), s.phase = .idle → s.resetLine = false →
    s.host = .write 32 0x08 w :: rest → decodeCommand w = .ok i → step s = exec i { s with host := rest }) ∧
  (∀ (s s' : State) (i : Instr) (rest : Bits), s.phase ≠ .idle → nextTurn s = (.engine, s') → s.waiting = false →
    s.work = .getMagic → decodeAt .preamble s.bsrcRest = .ok (i, rest) → step s = exec i s') ∧
  (∀ (s s' : State) (st : List Frame) (i : Instr) (rest : Bits), s.phase ≠ .idle → nextTurn s = (.engine, s') →
    s.waiting = false → s.work = .getToken st → decodeAt .tree s.bsrcRest = .ok (i, rest) → step s = exec i s') ∧
  (∀ s s' : State, s.phase ≠ .idle → nextTurn s = (.engine, s') → s.waiting = false → s.awaitedToken = none →
    step s = .next (tick s'))

/-! ## Reset -/

/-- R46, R47, R220: what every register reads right after reset, and `irq` is low; a read of a table is unspecified, the
model's free value (log entry 6). -/
def Obligations.ResetRegisterValues : Prop :=
  State.reset.phase = .idle ∧ State.reset.pq = [] ∧ State.reset.irq = false ∧
    (readReg 0x00 State.reset).1 = 0x48554646 ∧ (readReg 0x04 State.reset).1 = 0xFACE8201 ∧
    (readReg 0x08 State.reset).1 = 0 ∧ (readReg 0x0C State.reset).1 = 0 ∧ (readReg 0x10 State.reset).1 = 0 ∧
    (readReg 0x14 State.reset).1 = 0x000003FF ∧ (readReg 0x18 State.reset).1 = 0 ∧ (readReg 0x1C State.reset).1 = 0 ∧
    (readReg 0x20 State.reset).1 = 0 ∧ (readReg 0x24 State.reset).1 = 0 ∧ (readReg 0x28 State.reset).1 = 0 ∧
    (readReg 0x2C State.reset).1 = 0 ∧ (readReg 0x30 State.reset).1 = 0 ∧ (readReg 0x34 State.reset).1 = 0 ∧
    (readReg 0x38 State.reset).1 = 0 ∧ (readReg 0x3C State.reset).1 = 0x04020120 ∧ (readReg 0x40 State.reset).1 = 0 ∧
    ∀ (a : TblAddr), a.table ≠ 3 →
      (readReg 0x44 { State.reset with tblAddr := a }).1 = Config.freeWord State.reset.draws

/-- R46, R220, R221: releasing an asserted reset gives every register its reset value, whatever the block was doing before, and leaves
the collaborators as they are; FREQ, NODE and CT are not specified (free values, log entry 7). `sched`, `draws` and the environment's
fields are the model's (log entries 4, 5, 6). -/
def Obligations.ReleasedResetGivesResetValues : Prop :=
  ∀ (s : State) (rest : List HostEvent), s.resetLine = true → s.phase = .idle → s.host = .releaseReset :: rest →
    ∃ f n c d, step s = .next { State.reset with
      freq := f, node := n, ct := c, draws := d, params := s.params
      src := s.src, bsnk := s.bsnk, bsrc := s.bsrc, bysnk := s.bysnk, host := rest, reads := s.reads, sched := s.sched }

/-- R220, R221: reset asserted while BUSY abandons the command: the block is IDLE, no DONE, ERR or other register is changed for it, and
what the collaborators then hold is not specified (free values, log entry 12); `HostTurn` and `hostServed` are how the model serves the
host while a command runs (log entry 5). -/
def Obligations.ResetAbandonsARunningCommand : Prop :=
  ∀ (s : State) (rest : List HostEvent), s.phase ≠ .idle → HostTurn s → s.host = .assertReset :: rest →
    ∃ inp sp out bin bp ob d, step s = .next { hostServed s with
      host := rest, resetLine := true, phase := .idle, work := .none, todo := []
      src := ⟨inp, sp, s.src.replies⟩, bsnk := ⟨out, s.bsnk.replies⟩, bsrc := ⟨bin, bp, s.bsrc.replies⟩
      bysnk := ⟨ob, s.bysnk.replies⟩, draws := d }

/-- R220: reset asserted while IDLE only holds the block in reset: the registers keep their values until the release (log entry 12). With
no host event an IDLE block waits, in reset or out of it. -/
def Obligations.ResetWhileIdleHoldsTheBlock : Prop :=
  ∀ s : State, s.phase = .idle →
    (∀ rest : List HostEvent, s.host = .assertReset :: rest → step s = .next { s with host := rest, resetLine := true }) ∧
    (s.host = [] → step s = .next s)

/-! ## The register window -/

/-- R61, R220: an access that is not 32 bits wide, not aligned, or outside `0x00` to `0xFF` is refused, and so is every access while reset is
asserted, whatever the block is doing; `HostTurn` says that the access is served next (log entry 5). -/
def Obligations.UndefinedAccessesAreRefused : Prop :=
  ∀ (s : State) (width addr : Nat) (w : Word) (rest : List HostEvent), HostTurn s →
    (s.resetLine = false → (width ≠ 32 ∨ addr % 4 ≠ 0 ∨ 0xFF < addr) →
      (s.host = .write width addr w :: rest ∨ s.host = .read width addr :: rest) →
      step s = .refused .undefinedAccess) ∧
    (s.resetLine = true →
      (s.host = .write width addr w :: rest ∨ s.host = .read width addr :: rest ∨ s.host = .wait :: rest) →
      step s = .refused .accessInReset)

/-- R23, R24, R25, R36, R61, R70, R85: ID, MAGIC, COMMAND and the reserved offsets read their constants at all times, while BUSY too. Every
aligned 32-bit read inside the window is served, out of reset, and changes nothing of the block: only the host's own record of the value
and the model's count of free values (the turn and the count: log entries 5, 6). WAIT is such reads of STATUS until BUSY reads 0: one read is
one step, and the wait stays the host's next event while BUSY (log entry 19). -/
def Obligations.ReadsHaveNoSideEffect : Prop :=
  (∀ s : State, (readReg 0x00 s).1 = 0x48554646 ∧ (readReg 0x04 s).1 = 0xFACE8201 ∧ (readReg 0x08 s).1 = 0 ∧
    ∀ addr, 0x48 ≤ addr → (readReg addr s).1 = 0) ∧
  (∀ (s : State) (addr : Nat) (rest : List HostEvent), HostTurn s → s.resetLine = false → addr % 4 = 0 → addr ≤ 0xFF →
    s.host = .read 32 addr :: rest →
    ∃ d, step s = .next { hostServed s with host := rest, reads := (addr, (readReg addr s).1) :: s.reads, draws := d }) ∧
  ∀ (s : State) (rest : List HostEvent), HostTurn s → s.resetLine = false → s.host = .wait :: rest →
    ∃ d, step s = .next { hostServed s with
      host := if s.busy then .wait :: rest else rest
      reads := (0x0C, (readReg 0x0C s).1) :: s.reads, draws := d }

/-- R36, R70: a write to a read-only register or a reserved offset is ignored (`HostTurn`, `hostServed`: log entry 5). -/
def Obligations.ReadOnlyWritesAreIgnored : Prop :=
  ∀ (s : State) (addr : Nat) (w : Word) (rest : List HostEvent), HostTurn s → s.resetLine = false →
    addr % 4 = 0 → addr ≤ 0xFF → addr ∉ [0x08, 0x0C, 0x10, 0x40] → s.host = .write 32 addr w :: rest →
    step s = .next { hostServed s with host := rest }

/-- R28, R34, R228: a write to INT_EN keeps bits 2:0, a write to TBL_ADDR keeps INDEX, WORD and TABLE, each takes effect at once, while
BUSY too, and reading the register gives the written word with the other bits 0 (`HostTurn`, `hostServed`: log entry 5). -/
def Obligations.IntEnAndTblAddrKeepTheirFields : Prop :=
  ∀ (s : State) (w : Word) (rest : List HostEvent), HostTurn s → s.resetLine = false →
    (s.host = .write 32 0x10 w :: rest →
      ∃ s', step s = .next s' ∧ s' = { hostServed s with host := rest, intEn := w.extractLsb' 0 3 } ∧
        (readReg 0x10 s').1 = w &&& 0x00000007) ∧
    (s.host = .write 32 0x40 w :: rest →
      ∃ s', step s = .next s' ∧
        s' = { hostServed s with host := rest, tblAddr := ⟨w.extractLsb' 0 10, w.extractLsb' 16 4, w.extractLsb' 28 2⟩ } ∧
        (readReg 0x40 s').1 = w &&& 0x300F03FF)

/-- R26, R197: a write to STATUS clears each of DONE, ERR and DROP whose bit is 1 and leaves the others; clearing ERR also clears
ERRCODE and ERRINFO; nothing else changes (`HostTurn`, `hostServed`: log entry 5). -/
def Obligations.StatusWriteClearsFlags : Prop :=
  ∀ (s : State) (w : Word) (rest : List HostEvent), HostTurn s → s.resetLine = false →
    s.host = .write 32 0x0C w :: rest →
    ∃ s', step s = .next s' ∧ s' = { hostServed s with
        host := rest, done := s'.done, err := s'.err, drop := s'.drop, errCode := s'.errCode, errInfo := s'.errInfo } ∧
      s'.done = (if w[1] then false else s.done) ∧ s'.err = (if w[2] then false else s.err) ∧
      s'.drop = (if w[3] then false else s.drop) ∧
      s'.errCode = (if w[2] then .none else s.errCode) ∧ s'.errInfo = (if w[2] then ⟨.none, 0⟩ else s.errInfo)

/-- R198: a COMMAND write while BUSY is dropped: the running command is not affected, the word is discarded, DROP is set; DROP is sticky:
the only step that clears it is a host write of STATUS with bit 3 set, or the release of reset (`HostTurn`,
`hostServed`: log entry 5). -/
def Obligations.CommandWhileBusyIsDropped : Prop :=
  (∀ (s : State) (w : Word) (rest : List HostEvent), s.phase ≠ .idle → HostTurn s → s.resetLine = false →
    s.host = .write 32 0x08 w :: rest →
    step s = .next { hostServed s with host := rest, drop := true }) ∧
  ∀ s s' : State, step s = .next s' → s.drop = true → s'.drop = false →
    (∃ w rest, s.host = .write 32 0x0C w :: rest ∧ w[3] = true) ∨ (∃ rest, s.host = .releaseReset :: rest ∧ s.resetLine = true)

/-- R47, R199: `irq` is high exactly when an enabled flag is pending, and the enables do not hold the flags back: STATUS shows them. -/
def Obligations.IrqIsTheEnabledFlags : Prop :=
  ∀ s : State,
    (s.irq = true ↔ (s.done = true ∧ s.intEn[0] = true) ∨ (s.err = true ∧ s.intEn[1] = true) ∨
      (s.drop = true ∧ s.intEn[2] = true)) ∧
    s.status[1] = s.done ∧ s.status[2] = s.err ∧ s.status[3] = s.drop

/-- R26, R190: every field of STATUS stands at its bits, the reserved bits read 0, and the error codes have R190's numbers. -/
def Obligations.StatusFieldsStandAtTheirBits : Prop :=
  ([.none, .illegalCommand, .sequence, .formatMismatch, .truncatedHeader, .truncatedBody, .upstreamIo, .countOverflow,
    .treeCapacity, .degenerateTree, .missingCode] : List ErrCode).map ErrCode.code = [0, 1, 2, 3, 4, 5, 6, 7, 8, 9, 10] ∧
  ∀ s : State, s.status[0] = s.busy ∧ s.status[1] = s.done ∧ s.status[2] = s.err ∧ s.status[3] = s.drop ∧
    (s.status.extractLsb' 4 4).toNat = s.errCode.code ∧ s.status[8] = s.freqValid ∧ s.status[9] = s.pqActive ∧
    s.status[10] = s.treeValid ∧ s.status[11] = s.treeSrc ∧ s.status[12] = s.codesValid ∧ s.status[13] = s.eosSeen ∧
    s.status.extractLsb' 14 2 = 0 ∧ s.status.extractLsb' 16 8 = s.lastOpc ∧ s.status.extractLsb' 24 8 = 0

/-- R27, R225: while BUSY a read of STATUS gives BUSY, DONE, ERR, DROP, ERRCODE and LAST_OPC exactly (and 0 in the reserved bits), INT_EN, PARAM and
TBL_ADDR read exactly; bits 13:8 of STATUS, TREE, PQINFO, ERRINFO, every counter and TBL_DATA read a free value (log entry 6). -/
def Obligations.ReadsWhileBusy : Prop :=
  ∀ s : State, s.phase ≠ .idle →
    (readReg 0x0C s).1 &&& 0xFFFFC0FF = s.status &&& 0xFFFFC0FF ∧
    (readReg 0x0C s).1 &&& 0x00003F00 = Config.freeWord s.draws &&& 0x00003F00 ∧
    (readReg 0x10 s).1 = s.intEnWord ∧ (readReg 0x3C s).1 = s.paramWord ∧ (readReg 0x40 s).1 = s.tblAddrWord ∧
    ∀ addr ∈ [0x14, 0x18, 0x1C, 0x20, 0x24, 0x28, 0x2C, 0x30, 0x34, 0x38, 0x44],
      (readReg addr s).1 = Config.freeWord s.draws

/-- R28, R29, R30, R31, R32, R33, R34: the registers read the state they stand for, field by field: INT_EN, PARAM and TBL_ADDR at all
times, the others while IDLE; the ports have R31's numbers. -/
def Obligations.RegistersReadTheirFields : Prop :=
  ([.none, .src, .bsnk, .bsrc, .bysnk] : List PortId).map PortId.num = [0, 1, 2, 3, 4] ∧
  (∀ s : State, (readReg 0x10 s).1.toNat = s.intEn.toNat ∧
    (s.params.wCount ≤ 32 → (readReg 0x3C s).1.toNat = s.params.wCount + 2 ^ 8 * 513 + 2 ^ 18 * 256) ∧
    (readReg 0x40 s).1.toNat =
      s.tblAddr.index.toNat + 2 ^ 16 * s.tblAddr.word.toNat + 2 ^ 28 * s.tblAddr.table.toNat) ∧
  ∀ s : State, s.phase = .idle → s.pq.length ≤ 257 →
    (readReg 0x0C s).1 = s.status ∧
    (readReg 0x14 s).1.toNat = s.root.toNat + 65536 * s.nodeCount.toNat ∧
    (readReg 0x18 s).1.toNat = s.pq.length + 65536 * s.leafCount.toNat ∧
    (readReg 0x1C s).1.toNat = s.errInfo.port.num + 256 * s.errInfo.phaseOpc.toNat ∧
    (readReg 0x20 s).1 = s.symIn ∧
    (readReg 0x24 s).1.toNat + 2 ^ 32 * (readReg 0x28 s).1.toNat = s.bitsOut.toNat ∧
    (readReg 0x2C s).1.toNat + 2 ^ 32 * (readReg 0x30 s).1.toNat = s.bitsIn.toNat ∧
    (readReg 0x34 s).1 = s.bytesOut ∧ (readReg 0x38 s).1 = s.hdrBits

/-- R35: TBL_DATA gives the words of the selected table while IDLE and the table is valid: counts, node fields, code lengths and path bits,
path bit `j` at word bit `31 - (j mod 32)`; every other combination reads 0; the read of a
table whose flag is 0 is unspecified, the model's free value (log entry 6). -/
def Obligations.TblDataReadsTheSelectedWord : Prop :=
  ∀ s : State, s.phase = .idle →
    let i := s.tblAddr.index.toNat
    let k := s.tblAddr.word.toNat
    let d := (readReg 0x44 s).1
    (s.tblAddr.table = 0 → s.freqValid = true → d = if h : i < 256 ∧ k = 0 then s.freq[i]'h.1 else 0) ∧
    (s.tblAddr.table = 1 → s.treeValid = true ∨ s.pqActive = true → s.nodeCount.toNat ≤ 513 →
      (s.nodeCount.toNat ≤ i → d = 0) ∧
      ∀ h : i < s.nodeCount.toNat ∧ i < 513,
        let n := s.node[i]'h.2
        (k = 0 → d.toNat = (if n.isLeaf then 2 ^ 31 else 0) + n.value.toNat) ∧
        (k = 1 → d.toNat = n.left.toNat + 65536 * n.right.toNat) ∧
        (k = 2 → d.toNat = n.weight.toNat % 2 ^ 32) ∧ (k = 3 → d.toNat = n.weight.toNat / 2 ^ 32) ∧ (4 ≤ k → d = 0)) ∧
    (s.tblAddr.table = 2 → s.codesValid = true → CodesBounded s →
      (256 < i → d = 0) ∧
      ∀ h : i < 257,
        let c := s.ct[i]
        (k = 0 → d.toNat = c.length) ∧
        (1 ≤ k → k ≤ 8 → ∀ j < 32, d.getLsbD (31 - j) = c.getD (32 * (k - 1) + j) false) ∧ (9 ≤ k → d = 0)) ∧
    (s.tblAddr.table = 3 → d = 0) ∧
    ((s.tblAddr.table = 0 ∧ s.freqValid = false) ∨
        (s.tblAddr.table = 1 ∧ s.treeValid = false ∧ s.pqActive = false) ∨
        (s.tblAddr.table = 2 ∧ s.codesValid = false) → d = Config.freeWord s.draws)

/-! ## Errors -/

/-- R193, R194: error entry records the code, the port and the phase's opcode, sets ERR and DONE, and leaves the sequencer IDLE; no
flag, counter, register or stream is changed, and only a table the failing command had begun to fill is (free contents, log entry 7). -/
def Obligations.RaiseRecordsTheError : Prop :=
  ∀ (e : ErrCode) (q : PortId) (s : State) (op : Byte), s.phase = .busy op →
    ∃ f n d, raise e q s = { s with
        phase := .idle, work := .none, todo := [], errCode := e, errInfo := ⟨q, op⟩, err := true, done := true
        freq := f, node := n, draws := d } ∧
      (s.work ≠ .countRead → f = s.freq) ∧ (s.work.inRdhdr = false → n = s.node)

/-- R193, R194, R206: an `IOERR` response on any port, at any transaction of any command, raises UPSTREAM_IO with that port and the phase's
opcode and ends the command; the validity flags are as they were, what was written stays written, and there is no further transaction:
one response is taken from that port, and the other ports are untouched. Wherever the engine awaits a
response, the piece of work it does raises the error, and changes no tree register; and so does the second transaction of a LEAF token,
its nine value bits, which the model does in one piece of work with the first (log entry 15): there the flag bit has been received and
counted and the pool entry allocated (R142). A wire token that is executed where it is awaited does that same piece of work. An emitted
code takes one response, and BITS_OUT after its `IOERR` is free (log entry 9). -/
def Obligations.IoErrorRaisesUpstreamIo : Prop :=
  (∀ (s : State) (op : Byte) (st : List Frame) (p : Bits) (rs : List Reply), s.phase = .busy op → s.work = .getToken st →
    s.bsrcRest = true :: p → s.bsrc.replies = .answer :: .ioerr :: rs → s.nodeCount.toNat < 513 →
    ∃ n pos d, tick s = { s with
      phase := .idle, work := .none, todo := [], done := true, err := true
      errCode := .upstreamIo, errInfo := ⟨.bsrc, op⟩
      bitsIn := s.bitsIn + 1, hdrBits := s.hdrBits + 1, nodeCount := s.nodeCount + 1
      node := n, bsrc := ⟨s.bsrc.bits, pos, rs⟩, draws := d }) ∧
  (∀ (s : State) (i : Instr), s.awaitedToken = some i → exec i s = .next (tick s)) ∧
  ∀ (s : State) (op : Byte), s.phase = .busy op → s.work.port ≠ .none → s.replyAt s.work.port = .ioerr →
    let t := tick s
    t.errCode = .upstreamIo ∧ t.errInfo = ⟨s.work.port, op⟩ ∧ t.err = true ∧ t.done = true ∧ t.phase = .idle ∧
      t.freqValid = s.freqValid ∧ t.pqActive = s.pqActive ∧ t.treeValid = s.treeValid ∧ t.treeSrc = s.treeSrc ∧
      t.codesValid = s.codesValid ∧ t.eosSeen = s.eosSeen ∧ t.root = s.root ∧ t.nodeCount = s.nodeCount ∧
      t.leafCount = s.leafCount ∧ t.symIn = s.symIn ∧ t.bitsIn = s.bitsIn ∧ t.bytesOut = s.bytesOut ∧ t.hdrBits = s.hdrBits ∧
      ((∀ c last, s.work ≠ .emit c last) → t.bitsOut = s.bitsOut) ∧
      t.src.data = s.src.data ∧ s.bsnk.bits <+: t.bsnk.bits ∧ t.bsrc.bits = s.bsrc.bits ∧ s.bysnk.bytes <+: t.bysnk.bytes ∧
      (if s.work.port = .src then t.src.replies = s.src.replies.tail else t.src = s.src) ∧
      (if s.work.port = .bsnk then t.bsnk.replies = s.bsnk.replies.tail else t.bsnk = s.bsnk) ∧
      (if s.work.port = .bsrc then t.bsrc.replies = s.bsrc.replies.tail else t.bsrc = s.bsrc) ∧
      (if s.work.port = .bysnk then t.bysnk.replies = s.bysnk.replies.tail else t.bysnk = s.bysnk)

/-- R131, R163, R190, R195: a command whose input table is not valid raises SEQUENCE, and GENCODES and DECODE on a tree whose root is a leaf
raise DEGENERATE_TREE, before any flag or table is changed or any port is used. -/
def Obligations.PreconditionsAreCheckedFirst : Prop :=
  ∀ s : State, Ready s →
    (s.freqValid = false → exec .buildInit s = .next (failed 0x03 .sequence .none s)) ∧
    (s.pqActive = false → exec .buildMerge s = .next (failed 0x04 .sequence .none s)) ∧
    (s.freqValid = false → exec .build s = .next (failed 0x05 .sequence .none s)) ∧
    (s.treeValid = false → exec .gencodes s = .next (failed 0x06 .sequence .none s)) ∧
    (s.treeValid = false → exec .wrhdr s = .next (failed 0x07 .sequence .none s)) ∧
    (s.codesValid = false → exec .encode s = .next (failed 0x08 .sequence .none s)) ∧
    (s.treeValid = false → exec .decode s = .next (failed 0x0B .sequence .none s)) ∧
    (s.treeValid = true → (s.nodeAt s.root).isLeaf = true →
      exec .gencodes s = .next (failed 0x06 .degenerateTree .none s) ∧
        exec .decode s = .next (failed 0x0B .degenerateTree .none s))

/-- R62: a collaborator that never responds leaves the command BUSY for ever: with nothing for the host to do, every later state is BUSY
at the same transaction, with nothing changed but the model's list of turns (log entries 5, 10). -/
def Obligations.SilentCollaboratorHangsTheCommand : Prop :=
  ∀ (s : State) (k : Nat), s.phase ≠ .idle → s.waiting = true → s.host = [] →
    ∃ r, Sys2Proof.core.run k s = .next { s with sched := r }

/-! ## Control -/

/-- R180: NOP does acceptance and completion and nothing else. -/
def Obligations.NopOnlyCompletes : Prop := ∀ s : State, Ready s → exec .nop s = .next (finished 0x00 s)

/-- R181: CLEAR clears every validity flag and the tree registers and empties PQ; INT_EN, TBL_ADDR, DROP and the ports are not changed; the
contents of FREQ, NODE and CT are unspecified (free values, log entry 7). -/
def Obligations.ClearInvalidatesEverything : Prop :=
  ∀ s : State, Ready s → ∃ f n c d, exec .clear s = .next { finished 0x01 s with
    freqValid := false, pqActive := false, treeValid := false, treeSrc := false, codesValid := false
    pq := [], nodeCount := 0, leafCount := 0, root := 0x3FF, freq := f, node := n, ct := c, draws := d }

/-! ## COUNT -/

/-- R100, R101: COUNT leaves in `FREQ[b]` the number of occurrences of `b` among the bytes from the read position on, for fewer than
`2^W_COUNT` copies of each; SYM_IN is their number; SRC is left at its end. -/
def Obligations.CountCountsEveryByte : Prop :=
  ∀ s : State, Ready s → Answers s.src.replies →
    let bytes := s.src.data.drop s.src.pos
    (∀ b, bytes.count b < 2 ^ s.params.wCount) →
    exec .count s = .next { finished 0x02 s with
      freqValid := true, pqActive := false, treeValid := false, codesValid := false
      freq := Vector.ofFn fun b : Fin 256 => BitVec.ofNat 32 (bytes.count (BitVec.ofNat 8 b))
      symIn := BitVec.ofNat 32 bytes.length
      src := ⟨s.src.data, s.src.pos + bytes.length, s.src.replies.drop (bytes.length + 1)⟩ }

/-- R100: the byte that would take its count past `2^W_COUNT - 1` raises COUNT_OVERFLOW; SYM_IN counts that byte; the flags COUNT cleared stay 0
and FREQ is unspecified (a free value, log entry 7). -/
def Obligations.CountOverflows : Prop :=
  ∀ (s : State) (pre post : List Byte) (b : Byte), Ready s → Answers s.src.replies → s.params.wCount ≤ 32 →
    s.src.data.drop s.src.pos = pre ++ b :: post → (∀ c, pre.count c < 2 ^ s.params.wCount) →
    pre.count b = 2 ^ s.params.wCount - 1 →
    ∃ f d, exec .count s = .next { failed 0x02 .countOverflow .none s with
      freqValid := false, pqActive := false, treeValid := false, codesValid := false
      symIn := BitVec.ofNat 32 (pre.length + 1)
      src := ⟨s.src.data, s.src.pos + pre.length + 1, s.src.replies.drop (pre.length + 1)⟩
      freq := f, draws := d }

/-! ## The tree builder -/

/-- R112, R110: `pq_extract_min` takes out the index of least key, weights compared first and then indices, and leaves the others. -/
def Obligations.ExtractMinTakesTheLeastKey : Prop :=
  ∀ s : State, s.pq ≠ [] → ∃ i, i ∈ s.pq ∧ (∀ j ∈ s.pq, j ≠ i → KeyLt s i j) ∧
    pqExtractMin s = some (i, { s with pq := s.pq.erase i })

/-- R114: BUILD_INIT makes one leaf per byte of non-zero count in ascending order, a placeholder for empty input only, and the sentinel last;
all are queued, ROOT is NIL. -/
def Obligations.BuildInitMakesTheLeaves : Prop :=
  ∀ s : State, Ready s → s.freqValid = true →
    let leaves := leavesOf s.freq
    exec .buildInit s = .next { finished 0x03 s with
      pqActive := true, treeValid := false, treeSrc := false, codesValid := false
      root := 0x3FF, nodeCount := BitVec.ofNat 10 leaves.length, leafCount := BitVec.ofNat 9 leaves.length
      pq := (List.range leaves.length).map (BitVec.ofNat 10), node := overlay leaves s.node }

/-- R113, R115: BUILD_MERGE takes the two least keys out of the queue and makes the next pool entry their parent, the first the left child, of
the sum of their weights; the merge that leaves one node takes it out as ROOT and makes the tree valid. Only that last merge clears
TREE_SRC, as R115's pseudocode has it, where R45's table gives 0 for every merge (log entry 17). -/
def Obligations.BuildMergeMergesTheTwoLeast : Prop :=
  ∀ s : State, Ready s → s.pqActive = true → 2 ≤ s.pq.length → s.pq.Pairwise (· < ·) →
    (∀ i ∈ s.pq, i < s.nodeCount) → s.nodeCount.toNat < 513 →
    ∃ a b, a ∈ s.pq ∧ b ∈ s.pq ∧ a ≠ b ∧ (∀ j ∈ s.pq, j ≠ a → KeyLt s a j) ∧
      (∀ j ∈ s.pq, j ≠ a → j ≠ b → KeyLt s b j) ∧
      let n : Node := ⟨false, 0x3FF, (s.nodeAt a).weight + (s.nodeAt b).weight, a, b⟩
      let t := { finished 0x04 s with
        node := s.node.setIfInBounds s.nodeCount.toNat n, nodeCount := s.nodeCount + 1 }
      exec .buildMerge s = .next (if s.pq.length = 2
        then { t with pq := [], root := s.nodeCount, pqActive := false, treeValid := true, treeSrc := false }
        else { t with pq := (s.pq.erase a).erase b ++ [s.nodeCount] })

/-- R116: BUILD is BUILD_INIT followed by one BUILD_MERGE less than there are leaves, but for LAST_OPC. -/
def Obligations.BuildIsInitThenMerges : Prop :=
  ∀ s : State, Ready s → s.freqValid = true →
    ∃ t0 t, exec .buildInit s = .next t0 ∧ execTimes .buildMerge (t0.leafCount.toNat - 1) t0 = .next t ∧
      exec .build s = .next { t with lastOpc := 0x05 }

/-- R118, R39: the tree that BUILD's merges make is a full tree of exact weights (that it is optimal is not stated): it has `L` leaves, two to 257, the leaves of the byte values counted and the sentinel; NODE_COUNT is
`2L - 1` and ROOT `2L - 2`; every internal weight is the exact sum of its children's, and the root's is `Σ FREQ + 1`. -/
def Obligations.BuildMakesAHuffmanTree : Prop :=
  ∀ s : State, Ready s → s.freqValid = true →
    ∃ (t : State) (tree : HTree), exec .build s = .next t ∧
      t = { finished 0x05 s with
        pqActive := false, treeValid := true, treeSrc := false, codesValid := false, pq := []
        root := t.root, nodeCount := t.nodeCount, leafCount := t.leafCount, node := t.node } ∧
      HoldsTree t tree ∧ 2 ≤ tree.leaves ∧ tree.leaves ≤ 257 ∧ tree.leaves = (leavesOf s.freq).length ∧
      t.nodeCount.toNat = 2 * tree.leaves - 1 ∧ t.root.toNat = 2 * tree.leaves - 2 ∧
      (tree.codes.map Prod.fst).Perm ((leavesOf s.freq).map Node.value) ∧
      (∀ i : NodeIdx, i.toNat < t.nodeCount.toNat → (t.nodeAt i).isLeaf = false →
        (t.nodeAt i).weight.toNat =
          (t.nodeAt (t.nodeAt i).left).weight.toNat + (t.nodeAt (t.nodeAt i).right).weight.toNat) ∧
      (t.nodeAt t.root).weight.toNat = totalCount s.freq + 1

/-- R117: the tree BUILD makes, its node indices and weights included, is a function of FREQ alone. -/
def Obligations.BuildDependsOnFreqAlone : Prop :=
  ∀ s₁ s₂ t₁ t₂ : State, Ready s₁ → Ready s₂ → s₁.freqValid = true → s₂.freqValid = true → s₁.freq = s₂.freq →
    exec .build s₁ = .next t₁ → exec .build s₂ = .next t₂ →
    t₁.root = t₂.root ∧ t₁.nodeCount = t₂.nodeCount ∧ t₁.leafCount = t₂.leafCount ∧
      ∀ i : NodeIdx, i.toNat < t₁.nodeCount.toNat → t₁.nodeAt i = t₂.nodeAt i

/-! ## GENCODES -/

/-- R130, R131: GENCODES gives every leaf value up to 256 the path of its rightmost leaf, and every other entry no code. -/
def Obligations.GencodesRecordsLeafPaths : Prop :=
  ∀ (s : State) (tree : HTree), Ready s → HoldsTree s tree → (s.nodeAt s.root).isLeaf = false →
    exec .gencodes s = .next { finished 0x06 s with codesValid := true, ct := tree.codeTable }

/-- R132: the code table of a built tree: exactly the counted bytes, the sentinel and (for empty input) the placeholder have codes, of 1 to
256 bits; no code is a prefix of another; and the code is complete, `Σ 2^(-|c|) = 1`. -/
def Obligations.BuiltCodesAreACompletePrefixCode : Prop :=
  ∀ s : State, Ready s → s.freqValid = true →
    ∃ t u, exec .build s = .next t ∧ exec .gencodes t = .next u ∧ u.codesValid = true ∧ u.err = false ∧
      (∀ b : Fin 256, u.ct[(b : Nat)] ≠ [] ↔ s.freq[(b : Nat)] ≠ 0 ∨ (b = 0 ∧ totalCount s.freq = 0)) ∧
      u.ct[256] ≠ [] ∧
      (∀ v w : Fin 257, v ≠ w → u.ct[(v : Nat)] ≠ [] → ¬ u.ct[(v : Nat)] <+: u.ct[(w : Nat)]) ∧
      (∀ v : Fin 257, u.ct[(v : Nat)].length ≤ 256) ∧
      ((u.ct.toList.filter (· ≠ [])).map fun c => 2 ^ (256 - c.length)).sum = 2 ^ 256

/-! ## The header codec -/

/-- R88, R91, R140, R141: WRHDR appends the magic number and the tree's preorder encoding, `11L - 1` bits, to BSNK and counts them. -/
def Obligations.WrhdrWritesMagicAndTree : Prop :=
  ∀ (s : State) (tree : HTree), Ready s → HoldsTree s tree → Answers s.bsnk.replies →
    tree.wire.length = 11 * tree.leaves - 1 ∧
      exec .wrhdr s = .next { finished 0x07 s with
        bitsOut := BitVec.ofNat 64 (32 + tree.wire.length), hdrBits := BitVec.ofNat 32 tree.wire.length
        bsnk := ⟨s.bsnk.bits ++ bitsN 32 0xFACE8201 ++ tree.wire, s.bsnk.replies.drop (1 + tree.size + tree.leaves)⟩ }

/-- R142, R143, R145: RDHDR of a magic number and a tree of at most 513 nodes rebuilds the tree in preorder from index 0 with weights 0, and
leaves BSRC at the first bit after the tree section. -/
def Obligations.RdhdrReadsMagicAndTree : Prop :=
  ∀ (s : State) (tree : HTree) (rest : Bits), Ready s → Answers s.bsrc.replies → tree.size ≤ 513 →
    (∀ c ∈ tree.codes, c.1.toNat < 512) → s.bsrcRest = bitsN 32 0xFACE8201 ++ tree.wire ++ rest →
    ∃ n, let t := { finished 0x0A s with
        pqActive := false, treeValid := true, treeSrc := true, codesValid := false, pq := []
        root := 0, nodeCount := BitVec.ofNat 10 tree.size, leafCount := BitVec.ofNat 9 tree.leaves
        bitsIn := BitVec.ofNat 64 (32 + tree.wire.length), hdrBits := BitVec.ofNat 32 tree.wire.length
        bsrc := ⟨s.bsrc.bits, s.bsrc.pos + 32 + tree.wire.length, s.bsrc.replies.drop (1 + tree.size + tree.leaves)⟩
        node := n }
      exec .rdhdr s = .next t ∧ HoldsTree t tree ∧
        IsTree t.nodeAt 0 tree ((List.range tree.size).map (BitVec.ofNat 10)) ∧
        ∀ i : Fin 513, i.val < tree.size → n[(i : Nat)].weight = 0 ∧
          (n[(i : Nat)].isLeaf = false → n[(i : Nat)].value = 0x3FF)

/-- R143, R87, R94, R145: RDHDR raises FORMAT_MISMATCH before any tree bit is read, when fewer than 32 bits are left (port BSRC, BITS_IN 0)
or when they are not the magic number, `0xFACE8202` included (no port, BITS_IN 32). -/
def Obligations.RdhdrRejectsOtherFormats : Prop :=
  ∀ s : State, Ready s → Answers s.bsrc.replies →
    (s.bsrcRest.length < 32 → ∃ t, exec .rdhdr s = .next t ∧ t.err = true ∧ t.errCode = .formatMismatch ∧
      t.errInfo = ⟨.bsrc, 0x0A⟩ ∧ t.bitsIn = 0 ∧ t.hdrBits = 0 ∧ t.treeValid = false ∧ t.phase = .idle) ∧
    (32 ≤ s.bsrcRest.length → num (s.bsrcRest.take 32) ≠ 0xFACE8201 →
      ∃ t, exec .rdhdr s = .next t ∧ t.err = true ∧ t.errCode = .formatMismatch ∧
        t.errInfo = ⟨.none, 0x0A⟩ ∧ t.bitsIn = 32 ∧ t.hdrBits = 0 ∧ t.treeValid = false ∧ t.phase = .idle)

/-- R142, R143, R145, R165: a header cut short anywhere inside the tree section, before the flag bit of a 514th node, raises TRUNCATED_HEADER,
whether or not the tree would have fitted the pool; BITS_IN and HDR_BITS count the tree bits received before the short read: a leaf's
value bits only when all nine are there. -/
def Obligations.RdhdrDetectsTruncation : Prop :=
  ∀ (s : State) (tree : HTree) (q : Bits), Ready s → Answers s.bsrc.replies →
    q <+: tree.wire → q ≠ tree.wire → q.length ≤ (tree.reads.take 513).flatten.sum → s.bsrcRest = bitsN 32 0xFACE8201 ++ q →
    let k := bitsReceived tree.reads.flatten q.length
    ∃ t, exec .rdhdr s = .next t ∧ t.err = true ∧ t.errCode = .truncatedHeader ∧ t.errInfo = ⟨.bsrc, 0x0A⟩ ∧
      t.treeValid = false ∧ t.phase = .idle ∧ t.bitsIn = BitVec.ofNat 64 (32 + k) ∧ t.hdrBits = BitVec.ofNat 32 k

/-- R142, R143, R145: a header that describes more than 513 nodes raises TREE_CAPACITY at the flag bit of the 514th node, whatever follows that
bit, the end of the stream too; BITS_IN and HDR_BITS count the 513 tokens before it and that bit. -/
def Obligations.RdhdrRejectsOversizedTrees : Prop :=
  ∀ (s : State) (tree : HTree) (rest : Bits), Ready s → Answers s.bsrc.replies → 513 < tree.size →
    let k := (tree.reads.take 513).flatten.sum + 1
    s.bsrcRest = bitsN 32 0xFACE8201 ++ tree.wire.take k ++ rest →
    ∃ t, exec .rdhdr s = .next t ∧ t.err = true ∧ t.errCode = .treeCapacity ∧ t.errInfo = ⟨.none, 0x0A⟩ ∧
      t.treeValid = false ∧ t.nodeCount = 513 ∧ t.phase = .idle ∧ t.bitsIn = BitVec.ofNat 64 (32 + k) ∧
      t.hdrBits = BitVec.ofNat 32 k

/-- R144: header idempotence: RDHDR over the bits WRHDR writes rebuilds a tree of the same shape and leaf values and consumes exactly those
bits, and GENCODES over it gives the same code table. -/
def Obligations.HeaderIdempotence : Prop :=
  ∀ (s w r : State) (tree : HTree) (out rest : Bits), Ready s → HoldsTree s tree →
    (∀ c ∈ tree.codes, c.1.toNat < 512) → Answers s.bsnk.replies → exec .wrhdr s = .next w →
    w.bsnk.bits = s.bsnk.bits ++ out → Ready r → Answers r.bsrc.replies → r.bsrcRest = out ++ rest →
    out.length = 32 + (11 * tree.leaves - 1) ∧
      ∃ t, exec .rdhdr r = .next t ∧ HoldsTree t tree ∧ t.bsrcRest = rest ∧
        ((s.nodeAt s.root).isLeaf = false → ∃ c d, exec .gencodes s = .next c ∧ exec .gencodes t = .next d ∧ c.ct = d.ct)

/-! ## The body codec -/

/-- R160, R161, R92: ENCODE rewinds SRC and appends the code of every byte in order and once the sentinel's, and counts bytes and bits.
That each code takes one response of BSNK is the model's choice (log entry 9). -/
def Obligations.EncodeWritesCodesAndSentinel : Prop :=
  ∀ s : State, Ready s → s.codesValid = true → Answers s.src.replies → Answers s.bsnk.replies →
    (∀ b ∈ s.src.data, s.codeOf b ≠ []) → s.eofCode ≠ [] →
    let body := (s.src.data.map s.codeOf).flatten ++ s.eofCode
    exec .encode s = .next { finished 0x08 s with
      symIn := BitVec.ofNat 32 s.src.data.length, bitsOut := BitVec.ofNat 64 body.length
      src := ⟨s.src.data, s.src.data.length, s.src.replies.drop (s.src.data.length + 2)⟩
      bsnk := ⟨s.bsnk.bits ++ body, s.bsnk.replies.drop (s.src.data.length + 1)⟩ }

/-- R161: a byte with no code, or the sentinel with none, raises MISSING_CODE before any bit of it is written; the codes before it are written.
That each code takes one response of BSNK is the model's choice (log entry 9). -/
def Obligations.EncodeRaisesMissingCode : Prop :=
  ∀ s : State, Ready s → s.codesValid = true → Answers s.src.replies → Answers s.bsnk.replies →
    (∀ (pre post : List Byte) (b : Byte), s.src.data = pre ++ b :: post → (∀ c ∈ pre, s.codeOf c ≠ []) →
      s.codeOf b = [] →
      exec .encode s = .next { failed 0x08 .missingCode .none s with
        symIn := BitVec.ofNat 32 (pre.length + 1), bitsOut := BitVec.ofNat 64 (pre.map s.codeOf).flatten.length
        src := ⟨s.src.data, pre.length + 1, s.src.replies.drop (pre.length + 2)⟩
        bsnk := ⟨s.bsnk.bits ++ (pre.map s.codeOf).flatten, s.bsnk.replies.drop pre.length⟩ }) ∧
    ((∀ c ∈ s.src.data, s.codeOf c ≠ []) → s.eofCode = [] →
      exec .encode s = .next { failed 0x08 .missingCode .none s with
        symIn := BitVec.ofNat 32 s.src.data.length
        bitsOut := BitVec.ofNat 64 (s.src.data.map s.codeOf).flatten.length
        src := ⟨s.src.data, s.src.data.length, s.src.replies.drop (s.src.data.length + 2)⟩
        bsnk := ⟨s.bsnk.bits ++ (s.src.data.map s.codeOf).flatten, s.bsnk.replies.drop s.src.data.length⟩ })

/-- R162, R163, R165: DECODE of the paths of leaves that are not the sentinel, and then of the sentinel's, writes the low 8 bits of each leaf
value to BYSNK, sets EOS_SEEN, and reads no bit past the sentinel's path. -/
def Obligations.DecodeWalksTheTree : Prop :=
  ∀ (s : State) (tree : HTree) (syms : List (BitVec 10 × Bits)) (eof rest : Bits), Ready s → HoldsTree s tree →
    (s.nodeAt s.root).isLeaf = false → Answers s.bsrc.replies → Answers s.bysnk.replies →
    (∀ c ∈ syms, c ∈ tree.codes ∧ c.1.toNat ≠ 256) → (256, eof) ∈ tree.codes →
    s.bsrcRest = (syms.map Prod.snd).flatten ++ eof ++ rest →
    let k := ((syms.map Prod.snd).flatten ++ eof).length
    exec .decode s = .next { finished 0x0B s with
      eosSeen := true, bitsIn := BitVec.ofNat 64 k, bytesOut := BitVec.ofNat 32 syms.length
      bsrc := ⟨s.bsrc.bits, s.bsrc.pos + k, s.bsrc.replies.drop k⟩
      bysnk := ⟨s.bysnk.bytes ++ syms.map (fun c => c.1.setWidth 8), s.bysnk.replies.drop syms.length⟩ }

/-- R163, R165: a body that ends before the sentinel's path does raises TRUNCATED_BODY: the bytes decoded before stay written, every bit is
counted, the tree stays valid, and EOS_SEEN is 0; the read position after the `EOS` is free (log entry 8). -/
def Obligations.DecodeDetectsTruncation : Prop :=
  ∀ (s : State) (tree : HTree) (syms : List (BitVec 10 × Bits)) (v : BitVec 10) (p q : Bits), Ready s →
    HoldsTree s tree → (s.nodeAt s.root).isLeaf = false → Answers s.bsrc.replies → Answers s.bysnk.replies →
    (∀ c ∈ syms, c ∈ tree.codes ∧ c.1.toNat ≠ 256) → (v, p) ∈ tree.codes → q <+: p → q ≠ p →
    s.bsrcRest = (syms.map Prod.snd).flatten ++ q →
    ∃ pos d, exec .decode s = .next { failed 0x0B .truncatedBody .bsrc s with
      bitsIn := BitVec.ofNat 64 s.bsrcRest.length, bytesOut := BitVec.ofNat 32 syms.length
      bsrc := ⟨s.bsrc.bits, pos, s.bsrc.replies.drop (s.bsrcRest.length + 1)⟩
      bysnk := ⟨s.bysnk.bytes ++ syms.map (fun c => c.1.setWidth 8), s.bysnk.replies.drop syms.length⟩, draws := d }

/-! ## Composite commands -/

/-- R182, R196: COMPRESS is its phases in order, its counters counting across them; the first failing phase ends it, with that phase's
error. -/
def Obligations.CompressRunsItsPhases : Prop :=
  ∀ s a b c d e : State, Ready s →
    exec .count s = .next a → (a.err = true → exec .compress s = .next { a with lastOpc := 0x09 }) ∧
    (a.err = false → a.phase = .idle → exec .build a = .next b → exec .gencodes b = .next c → exec .wrhdr c = .next d →
      (d.err = true → exec .compress s = .next { d with lastOpc := 0x09, symIn := a.symIn }) ∧
      (d.err = false → d.phase = .idle → exec .encode d = .next e → e.phase = .idle →
        exec .compress s = .next { e with
          lastOpc := 0x09, symIn := a.symIn + e.symIn, bitsOut := d.bitsOut + e.bitsOut, hdrBits := d.hdrBits }))

/-- R182: COMPRESS of input without `IOERR` completes: the header of the built tree precedes the body on BSNK, SYM_IN counts both passes,
BITS_OUT every bit and HDR_BITS the tree section. -/
def Obligations.CompressWritesHeaderAndBody : Prop :=
  ∀ s : State, Ready s → Answers s.src.replies → Answers s.bsnk.replies → s.src.pos = 0 → s.params.wCount ≤ 32 →
    (∀ b, s.src.data.count b < 2 ^ s.params.wCount) →
    ∃ (t : State) (tree : HTree), exec .compress s = .next t ∧ HoldsTree t tree ∧
      t.phase = .idle ∧ t.done = true ∧ t.err = false ∧ t.lastOpc = 0x09 ∧ t.freqValid = true ∧ t.pqActive = false ∧
      t.treeSrc = false ∧ t.codesValid = true ∧ t.eosSeen = false ∧ t.ct = tree.codeTable ∧
      (let body := (s.src.data.map t.codeOf).flatten ++ t.eofCode
       t.bsnk.bits = s.bsnk.bits ++ bitsN 32 0xFACE8201 ++ tree.wire ++ body ∧
       t.symIn = BitVec.ofNat 32 (2 * s.src.data.length) ∧
       t.bitsOut = BitVec.ofNat 64 (32 + (11 * tree.leaves - 1) + body.length) ∧
       t.hdrBits = BitVec.ofNat 32 (11 * tree.leaves - 1)) ∧
      t.bsrc = s.bsrc ∧ t.bysnk = s.bysnk ∧ t.src.data = s.src.data ∧ t.drop = s.drop ∧ t.intEn = s.intEn ∧
      t.tblAddr = s.tblAddr

/-- R183, R196: DECOMPRESS is RDHDR then DECODE, its counters counting across them; an error in RDHDR ends it before DECODE writes any byte. -/
def Obligations.DecompressRunsItsPhases : Prop :=
  ∀ s a b : State, Ready s → exec .rdhdr s = .next a →
    (a.err = true → exec .decompress s = .next { a with lastOpc := 0x0C } ∧ a.bytesOut = 0) ∧
    (a.err = false → a.phase = .idle → exec .decode a = .next b → b.phase = .idle →
      exec .decompress s = .next { b with lastOpc := 0x0C, bitsIn := a.bitsIn + b.bitsIn, hdrBits := a.hdrBits })

/-- R164: the round trip: for every input with fewer than `2^W_COUNT` copies of each byte, on collaborators that give no `IOERR`, COMPRESS
writes a stream that DECOMPRESS, on any block, whatever follows it, turns back into exactly that input, ending with EOS_SEEN = 1 and
reading exactly the bits written. -/
def Obligations.RoundTrip : Prop :=
  ∀ s : State, Ready s → Answers s.src.replies → Answers s.bsnk.replies → s.src.pos = 0 → s.params.wCount ≤ 32 →
    (∀ b, s.src.data.count b < 2 ^ s.params.wCount) →
    ∃ (t : State) (out : Bits), exec .compress s = .next t ∧ t.err = false ∧ t.bsnk.bits = s.bsnk.bits ++ out ∧
      ∀ (r : State) (rest : Bits), Ready r → Answers r.bsrc.replies → Answers r.bysnk.replies →
        r.bsrcRest = out ++ rest →
        ∃ u, exec .decompress r = .next u ∧ u.phase = .idle ∧ u.done = true ∧ u.err = false ∧ u.eosSeen = true ∧
          u.bysnk.bytes = r.bysnk.bytes ++ s.src.data ∧ u.bsrcRest = rest ∧
          u.bitsIn = BitVec.ofNat 64 out.length ∧ u.bytesOut = BitVec.ofNat 32 s.src.data.length

/-! ## Wire tokens -/

/-- R87, R143: MAGIC read at the start of a stream: its 32 bits are consumed and counted, and the deserializer goes on to the tree section. -/
def Obligations.MagicStartsTheTreeSection : Prop :=
  ∀ (s : State) (rest : Bits), s.work = .getMagic → Answers s.bsrc.replies → s.bsrcRest = bitsN 32 0xFACE8201 ++ rest →
    exec .magic s = .next { s with
      work := .getToken [], bitsIn := s.bitsIn + 32, bsrc := ⟨s.bsrc.bits, s.bsrc.pos + 32, s.bsrc.replies.tail⟩ }

/-- R88, R142: INTERNAL: one bit is consumed and counted, the next pool entry is an internal node, and its left subtree is awaited. -/
def Obligations.InternalOpensASubtree : Prop :=
  ∀ (s : State) (st : List Frame) (rest : Bits), s.work = .getToken st → Answers s.bsrc.replies →
    s.bsrcRest = false :: rest → s.nodeCount.toNat < 513 →
    exec .internal s = .next { s with
      work := .getToken (⟨s.nodeCount, none⟩ :: st), bitsIn := s.bitsIn + 1, hdrBits := s.hdrBits + 1
      node := s.node.setIfInBounds s.nodeCount.toNat ⟨false, 0x3FF, 0, 0x3FF, 0x3FF⟩, nodeCount := s.nodeCount + 1
      bsrc := ⟨s.bsrc.bits, s.bsrc.pos + 1, s.bsrc.replies.tail⟩ }

/-- R88, R90, R142, R143: LEAF: ten bits are consumed and counted, the next pool entry is the leaf, and its subtree is closed: as the left child
of the innermost pending node, whose right subtree is then awaited; as its right child, which completes that node; or, with no node
pending and no phase to come, as the whole tree, which ends RDHDR. -/
def Obligations.LeafClosesASubtree : Prop :=
  ∀ (s : State) (st : List Frame) (v : Nat) (rest : Bits), s.work = .getToken st → Answers s.bsrc.replies → v < 512 →
    s.bsrcRest = true :: bitsN 9 v ++ rest → s.nodeCount.toNat < 513 →
    let t := { s with
      work := .getValue s.nodeCount st, bitsIn := s.bitsIn + 10, hdrBits := s.hdrBits + 10
      node := s.node.setIfInBounds s.nodeCount.toNat ⟨true, BitVec.ofNat 10 v, 0, 0x3FF, 0x3FF⟩
      nodeCount := s.nodeCount + 1, leafCount := s.leafCount + 1
      bsrc := ⟨s.bsrc.bits, s.bsrc.pos + 10, s.bsrc.replies.drop 2⟩ }
    exec (.leaf v) s = .next (closeSubtree s.nodeCount st t) ∧
    (∀ i tl, st = ⟨i, none⟩ :: tl →
      exec (.leaf v) s = .next { t with work := .getToken (⟨i, some s.nodeCount⟩ :: tl) }) ∧
    (∀ i l tl, st = ⟨i, some l⟩ :: tl →
      exec (.leaf v) s = .next (closeSubtree i tl { t with
        node := t.node.setIfInBounds i.toNat { t.nodeAt i with left := l, right := s.nodeCount } })) ∧
    (st = [] → s.todo = [] →
      exec (.leaf v) s = .next { t with
        root := s.nodeCount, treeValid := true, treeSrc := true, phase := .idle, work := .none, done := true })

/-- R89, R142: where the deserializer is not at such a token, no token is read, and the model stops by name (the fault is the model's own,
log entry 15). -/
def Obligations.TokensOnlyWhereAwaited : Prop :=
  ∀ s : State,
    (s.work ≠ .getMagic → exec .magic s = .fault .tokenNotAwaited) ∧
    ((∀ st, s.work ≠ .getToken st) →
      exec .internal s = .fault .tokenNotAwaited ∧ ∀ v, exec (.leaf v) s = .fault .tokenNotAwaited) ∧
    (s.bsrcRest.head? ≠ some false → exec .internal s = .fault .tokenNotAwaited)

/-! ## Whole-machine rules -/

/-- R37, R40, R42, R45, R191: what no instruction writes. INT_EN, TBL_ADDR, the parameter, what the host holds and the collaborators' inputs
are never written, and DROP not by a command accepted while IDLE; FREQ is written only by COUNT, COMPRESS and CLEAR, the code table only
by GENCODES, COMPRESS and CLEAR, the node pool, the tree registers and PQ only by the builders, RDHDR, the composite commands, CLEAR and
the tree's wire tokens; each port is used only by the commands the spec gives it; and NOP, WRHDR, ENCODE and DECODE change no validity flag.
That NODE and CT keep their contents over a COUNT that fails, and CT over an RDHDR that fails, is the model's reading of R100 against R194
(log entry 7). -/
def Obligations.InstructionsKeepWhatTheyDoNotWrite : Prop :=
  ∀ (i : Instr) (s t : State), exec i s = .next t →
    t.intEn = s.intEn ∧ t.tblAddr = s.tblAddr ∧ t.params = s.params ∧ t.host = s.host ∧ t.reads = s.reads ∧
    t.resetLine = s.resetLine ∧ t.src.data = s.src.data ∧ t.bsrc.bits = s.bsrc.bits ∧ (s.phase = .idle → t.drop = s.drop) ∧
    (i ∉ [.count, .compress, .clear] → t.freq = s.freq) ∧ (i ∉ [.gencodes, .compress, .clear] → t.ct = s.ct) ∧
    (i ∈ [.nop, .count, .gencodes, .wrhdr, .encode, .decode] →
      t.node = s.node ∧ t.root = s.root ∧ t.nodeCount = s.nodeCount ∧ t.leafCount = s.leafCount ∧ t.pq = s.pq) ∧
    (i ∉ [.count, .encode, .compress] → t.src = s.src) ∧ (i ∉ [.wrhdr, .encode, .compress] → t.bsnk = s.bsnk) ∧
    (i.slot = .command → i ∉ [.rdhdr, .decode, .decompress] → t.bsrc = s.bsrc) ∧
    (i ∉ [.decode, .decompress] → t.bysnk = s.bysnk) ∧
    (i ∈ [.nop, .wrhdr, .encode, .decode] →
      t.freqValid = s.freqValid ∧ t.pqActive = s.pqActive ∧ t.treeValid = s.treeValid ∧ t.treeSrc = s.treeSrc ∧
        t.codesValid = s.codesValid)

/-- R230, R231: from any state the machine can be in, a command whose transactions are all answered ends: the block is IDLE with DONE = 1.
`Ready` says that the host takes no turn meanwhile (log entry 5). -/
def Obligations.EveryAnsweredCommandEnds : Prop :=
  ∀ (i : Instr) (s : State), i.slot = .command → Ready s → LifecycleInv s → PoolInv s → AllAnswered s →
    ∃ t, exec i s = .next t ∧ t.phase = .idle ∧ t.done = true

/-- R21, R26, R27, R31, R44: the invariant of the sequencer and of STATUS is kept by every step. -/
def Obligations.StepKeepsLifecycleInv : Prop :=
  ∀ s s' : State, LifecycleInv s → step s = .next s' → LifecycleInv s'

/-- R41, R42: PQ stays a set, and no code gets longer than `CODE_MAX` bits. That the list that stands for the set is ascending is the model's
own form (log entry 18): R41 says that the queue's arrangement cannot be observed. -/
def Obligations.StepKeepsTheTablesInForm : Prop :=
  ∀ s s' : State, step s = .next s' →
    (QueueCanonical s → QueueCanonical s') ∧ (CodesBounded s → CodesBounded s')

/-- R38, R39, R162: the node pool keeps its structure: whenever TREE_VALID is 1 the allocated entries form exactly one tree at ROOT. -/
def Obligations.StepKeepsPoolInv : Prop :=
  ∀ s s' : State, LifecycleInv s → PoolInv s → step s = .next s' → PoolInv s'

/-- R46, R220: the invariants hold right after reset. -/
def Obligations.ResetMeetsTheInvariants : Prop :=
  LifecycleInv State.reset ∧ QueueCanonical State.reset ∧ CodesBounded State.reset ∧ PoolInv State.reset
end

