-- ==== Sys2Proof/Laws/Bits.lean ====
section
/-! SUPPORT. Bit strings and numbers (spec/00_scope.md R11): `bitsN` and `num` are each other's inverse. -/

namespace Sys2Proof

@[simp] theorem num_nil : num [] = 0 := rfl

theorem num_foldl (p : Bits) (a : Nat) :
    p.foldl (fun a b => 2 * a + b.toNat) a = 2 ^ p.length * a + num p := by
  induction p generalizing a with
  | nil => simp [num]
  | cons b p ih =>
    simp only [num, List.foldl_cons, List.length_cons, Nat.mul_zero, Nat.zero_add]
    rw [ih, ih b.toNat, pow_succ]
    ring

theorem num_cons (b : Bool) (p : Bits) : num (b :: p) = 2 ^ p.length * b.toNat + num p := by
  have := num_foldl p b.toNat
  simpa [num] using this

theorem num_append (p q : Bits) : num (p ++ q) = 2 ^ q.length * num p + num q := by
  rw [num, List.foldl_append, num_foldl]
  rfl

theorem num_lt (p : Bits) : num p < 2 ^ p.length := by
  induction p with
  | nil => simp
  | cons b p ih =>
    rw [num_cons, List.length_cons, pow_succ]
    cases b <;> simp <;> omega

@[simp] theorem length_bitsN (n v : Nat) : (bitsN n v).length = n := by
  induction n with
  | zero => rfl
  | succ n ih => simp [bitsN, ih]

/-- `num` undoes `bitsN`, keeping the `n` low bits. -/
theorem num_bitsN (n v : Nat) : num (bitsN n v) = v % 2 ^ n := by
  induction n with
  | zero => simp [bitsN, Nat.mod_one]
  | succ n ih =>
    rw [bitsN, num_cons, ih, length_bitsN, Nat.testBit_eq_decide_div_mod_eq, Nat.mod_pow_succ]
    have h : v / 2 ^ n % 2 = 0 ∨ v / 2 ^ n % 2 = 1 := Nat.mod_two_eq_zero_or_one _
    rcases h with h | h <;> simp [h, Nat.add_comm]

theorem num_bitsN_of_lt {n v : Nat} (h : v < 2 ^ n) : num (bitsN n v) = v := by
  rw [num_bitsN, Nat.mod_eq_of_lt h]

/-- Bits above the `n` low ones do not matter. -/
theorem bitsN_add_mul (n v k : Nat) : bitsN n (v + 2 ^ n * k) = bitsN n v := by
  have gen : ∀ m ≤ n, bitsN m (v + 2 ^ n * k) = bitsN m v := by
    intro m hm
    induction m with
    | zero => rfl
    | succ m ih =>
      rw [bitsN, bitsN, ih (by omega)]
      congr 1
      have h := congrArg (Nat.testBit · m) (Nat.add_mul_mod_self_left v (2 ^ n) k)
      rw [Nat.testBit_mod_two_pow, Nat.testBit_mod_two_pow, decide_eq_true (show m < n by omega)] at h
      simpa only [Bool.true_and] using h
  exact gen n le_rfl

/-- `bitsN` undoes `num`. -/
theorem bitsN_num (p : Bits) : bitsN p.length (num p) = p := by
  induction p with
  | nil => rfl
  | cons b p ih =>
    rw [List.length_cons, bitsN]
    congr 1
    · rw [num_cons, Nat.testBit_eq_decide_div_mod_eq, Nat.mul_add_div (Nat.two_pow_pos _),
        Nat.div_eq_of_lt (num_lt p)]
      cases b <;> rfl
    · rw [num_cons, Nat.add_comm, bitsN_add_mul, ih]

/-- The first bits of a string that starts with `bitsN n v`. -/
@[simp] theorem take_bitsN_append (n v : Nat) (p : Bits) : (bitsN n v ++ p).take n = bitsN n v := by
  have := List.take_left (l₁ := bitsN n v) (l₂ := p)
  rwa [length_bitsN] at this

/-- What follows `bitsN n v`. -/
@[simp] theorem drop_bitsN_append (n v : Nat) (p : Bits) : (bitsN n v ++ p).drop n = p := by
  have := List.drop_left (l₁ := bitsN n v) (l₂ := p)
  rwa [length_bitsN] at this

end Sys2Proof
end

