-- ==== Sys2Proof/Laws/State.lean ====
section
/-! SUPPORT. One lemma per field per named update of the state, each true by `rfl`. -/

namespace Sys2Proof.Machine

/-! ## `setNode` -/

@[simp] theorem setNode_phase (i : NodeIdx) (n : Node) (s : State) : (s.setNode i n).phase = s.phase := rfl
@[simp] theorem setNode_work (i : NodeIdx) (n : Node) (s : State) : (s.setNode i n).work = s.work := rfl
@[simp] theorem setNode_todo (i : NodeIdx) (n : Node) (s : State) : (s.setNode i n).todo = s.todo := rfl
@[simp] theorem setNode_done (i : NodeIdx) (n : Node) (s : State) : (s.setNode i n).done = s.done := rfl
@[simp] theorem setNode_err (i : NodeIdx) (n : Node) (s : State) : (s.setNode i n).err = s.err := rfl
@[simp] theorem setNode_drop (i : NodeIdx) (n : Node) (s : State) : (s.setNode i n).drop = s.drop := rfl
@[simp] theorem setNode_errCode (i : NodeIdx) (n : Node) (s : State) : (s.setNode i n).errCode = s.errCode := rfl
@[simp] theorem setNode_freqValid (i : NodeIdx) (n : Node) (s : State) : (s.setNode i n).freqValid = s.freqValid := rfl
@[simp] theorem setNode_pqActive (i : NodeIdx) (n : Node) (s : State) : (s.setNode i n).pqActive = s.pqActive := rfl
@[simp] theorem setNode_treeValid (i : NodeIdx) (n : Node) (s : State) : (s.setNode i n).treeValid = s.treeValid := rfl
@[simp] theorem setNode_treeSrc (i : NodeIdx) (n : Node) (s : State) : (s.setNode i n).treeSrc = s.treeSrc := rfl
@[simp] theorem setNode_codesValid (i : NodeIdx) (n : Node) (s : State) : (s.setNode i n).codesValid = s.codesValid := rfl
@[simp] theorem setNode_eosSeen (i : NodeIdx) (n : Node) (s : State) : (s.setNode i n).eosSeen = s.eosSeen := rfl
@[simp] theorem setNode_lastOpc (i : NodeIdx) (n : Node) (s : State) : (s.setNode i n).lastOpc = s.lastOpc := rfl
@[simp] theorem setNode_intEn (i : NodeIdx) (n : Node) (s : State) : (s.setNode i n).intEn = s.intEn := rfl
@[simp] theorem setNode_root (i : NodeIdx) (n : Node) (s : State) : (s.setNode i n).root = s.root := rfl
@[simp] theorem setNode_nodeCount (i : NodeIdx) (n : Node) (s : State) : (s.setNode i n).nodeCount = s.nodeCount := rfl
@[simp] theorem setNode_leafCount (i : NodeIdx) (n : Node) (s : State) : (s.setNode i n).leafCount = s.leafCount := rfl
@[simp] theorem setNode_errInfo (i : NodeIdx) (n : Node) (s : State) : (s.setNode i n).errInfo = s.errInfo := rfl
@[simp] theorem setNode_symIn (i : NodeIdx) (n : Node) (s : State) : (s.setNode i n).symIn = s.symIn := rfl
@[simp] theorem setNode_bitsOut (i : NodeIdx) (n : Node) (s : State) : (s.setNode i n).bitsOut = s.bitsOut := rfl
@[simp] theorem setNode_bitsIn (i : NodeIdx) (n : Node) (s : State) : (s.setNode i n).bitsIn = s.bitsIn := rfl
@[simp] theorem setNode_bytesOut (i : NodeIdx) (n : Node) (s : State) : (s.setNode i n).bytesOut = s.bytesOut := rfl
@[simp] theorem setNode_hdrBits (i : NodeIdx) (n : Node) (s : State) : (s.setNode i n).hdrBits = s.hdrBits := rfl
@[simp] theorem setNode_tblAddr (i : NodeIdx) (n : Node) (s : State) : (s.setNode i n).tblAddr = s.tblAddr := rfl
@[simp] theorem setNode_freq (i : NodeIdx) (n : Node) (s : State) : (s.setNode i n).freq = s.freq := rfl
@[simp] theorem setNode_node (i : NodeIdx) (n : Node) (s : State) :
    (s.setNode i n).node = s.node.setIfInBounds i.toNat n := rfl
@[simp] theorem setNode_pq (i : NodeIdx) (n : Node) (s : State) : (s.setNode i n).pq = s.pq := rfl
@[simp] theorem setNode_ct (i : NodeIdx) (n : Node) (s : State) : (s.setNode i n).ct = s.ct := rfl
@[simp] theorem setNode_params (i : NodeIdx) (n : Node) (s : State) : (s.setNode i n).params = s.params := rfl
@[simp] theorem setNode_src (i : NodeIdx) (n : Node) (s : State) : (s.setNode i n).src = s.src := rfl
@[simp] theorem setNode_bsnk (i : NodeIdx) (n : Node) (s : State) : (s.setNode i n).bsnk = s.bsnk := rfl
@[simp] theorem setNode_bsrc (i : NodeIdx) (n : Node) (s : State) : (s.setNode i n).bsrc = s.bsrc := rfl
@[simp] theorem setNode_bysnk (i : NodeIdx) (n : Node) (s : State) : (s.setNode i n).bysnk = s.bysnk := rfl
@[simp] theorem setNode_host (i : NodeIdx) (n : Node) (s : State) : (s.setNode i n).host = s.host := rfl
@[simp] theorem setNode_reads (i : NodeIdx) (n : Node) (s : State) : (s.setNode i n).reads = s.reads := rfl
@[simp] theorem setNode_resetLine (i : NodeIdx) (n : Node) (s : State) : (s.setNode i n).resetLine = s.resetLine := rfl
@[simp] theorem setNode_sched (i : NodeIdx) (n : Node) (s : State) : (s.setNode i n).sched = s.sched := rfl
@[simp] theorem setNode_draws (i : NodeIdx) (n : Node) (s : State) : (s.setNode i n).draws = s.draws := rfl

/-! ## `setFreq` -/

@[simp] theorem setFreq_phase (b : Byte) (v : Word) (s : State) : (s.setFreq b v).phase = s.phase := rfl
@[simp] theorem setFreq_work (b : Byte) (v : Word) (s : State) : (s.setFreq b v).work = s.work := rfl
@[simp] theorem setFreq_todo (b : Byte) (v : Word) (s : State) : (s.setFreq b v).todo = s.todo := rfl
@[simp] theorem setFreq_done (b : Byte) (v : Word) (s : State) : (s.setFreq b v).done = s.done := rfl
@[simp] theorem setFreq_err (b : Byte) (v : Word) (s : State) : (s.setFreq b v).err = s.err := rfl
@[simp] theorem setFreq_drop (b : Byte) (v : Word) (s : State) : (s.setFreq b v).drop = s.drop := rfl
@[simp] theorem setFreq_errCode (b : Byte) (v : Word) (s : State) : (s.setFreq b v).errCode = s.errCode := rfl
@[simp] theorem setFreq_freqValid (b : Byte) (v : Word) (s : State) : (s.setFreq b v).freqValid = s.freqValid := rfl
@[simp] theorem setFreq_pqActive (b : Byte) (v : Word) (s : State) : (s.setFreq b v).pqActive = s.pqActive := rfl
@[simp] theorem setFreq_treeValid (b : Byte) (v : Word) (s : State) : (s.setFreq b v).treeValid = s.treeValid := rfl
@[simp] theorem setFreq_treeSrc (b : Byte) (v : Word) (s : State) : (s.setFreq b v).treeSrc = s.treeSrc := rfl
@[simp] theorem setFreq_codesValid (b : Byte) (v : Word) (s : State) : (s.setFreq b v).codesValid = s.codesValid := rfl
@[simp] theorem setFreq_eosSeen (b : Byte) (v : Word) (s : State) : (s.setFreq b v).eosSeen = s.eosSeen := rfl
@[simp] theorem setFreq_lastOpc (b : Byte) (v : Word) (s : State) : (s.setFreq b v).lastOpc = s.lastOpc := rfl
@[simp] theorem setFreq_intEn (b : Byte) (v : Word) (s : State) : (s.setFreq b v).intEn = s.intEn := rfl
@[simp] theorem setFreq_root (b : Byte) (v : Word) (s : State) : (s.setFreq b v).root = s.root := rfl
@[simp] theorem setFreq_nodeCount (b : Byte) (v : Word) (s : State) : (s.setFreq b v).nodeCount = s.nodeCount := rfl
@[simp] theorem setFreq_leafCount (b : Byte) (v : Word) (s : State) : (s.setFreq b v).leafCount = s.leafCount := rfl
@[simp] theorem setFreq_errInfo (b : Byte) (v : Word) (s : State) : (s.setFreq b v).errInfo = s.errInfo := rfl
@[simp] theorem setFreq_symIn (b : Byte) (v : Word) (s : State) : (s.setFreq b v).symIn = s.symIn := rfl
@[simp] theorem setFreq_bitsOut (b : Byte) (v : Word) (s : State) : (s.setFreq b v).bitsOut = s.bitsOut := rfl
@[simp] theorem setFreq_bitsIn (b : Byte) (v : Word) (s : State) : (s.setFreq b v).bitsIn = s.bitsIn := rfl
@[simp] theorem setFreq_bytesOut (b : Byte) (v : Word) (s : State) : (s.setFreq b v).bytesOut = s.bytesOut := rfl
@[simp] theorem setFreq_hdrBits (b : Byte) (v : Word) (s : State) : (s.setFreq b v).hdrBits = s.hdrBits := rfl
@[simp] theorem setFreq_tblAddr (b : Byte) (v : Word) (s : State) : (s.setFreq b v).tblAddr = s.tblAddr := rfl
@[simp] theorem setFreq_freq (b : Byte) (v : Word) (s : State) : (s.setFreq b v).freq = s.freq.set b.toNat v := rfl
@[simp] theorem setFreq_node (b : Byte) (v : Word) (s : State) : (s.setFreq b v).node = s.node := rfl
@[simp] theorem setFreq_pq (b : Byte) (v : Word) (s : State) : (s.setFreq b v).pq = s.pq := rfl
@[simp] theorem setFreq_ct (b : Byte) (v : Word) (s : State) : (s.setFreq b v).ct = s.ct := rfl
@[simp] theorem setFreq_params (b : Byte) (v : Word) (s : State) : (s.setFreq b v).params = s.params := rfl
@[simp] theorem setFreq_src (b : Byte) (v : Word) (s : State) : (s.setFreq b v).src = s.src := rfl
@[simp] theorem setFreq_bsnk (b : Byte) (v : Word) (s : State) : (s.setFreq b v).bsnk = s.bsnk := rfl
@[simp] theorem setFreq_bsrc (b : Byte) (v : Word) (s : State) : (s.setFreq b v).bsrc = s.bsrc := rfl
@[simp] theorem setFreq_bysnk (b : Byte) (v : Word) (s : State) : (s.setFreq b v).bysnk = s.bysnk := rfl
@[simp] theorem setFreq_host (b : Byte) (v : Word) (s : State) : (s.setFreq b v).host = s.host := rfl
@[simp] theorem setFreq_reads (b : Byte) (v : Word) (s : State) : (s.setFreq b v).reads = s.reads := rfl
@[simp] theorem setFreq_resetLine (b : Byte) (v : Word) (s : State) : (s.setFreq b v).resetLine = s.resetLine := rfl
@[simp] theorem setFreq_sched (b : Byte) (v : Word) (s : State) : (s.setFreq b v).sched = s.sched := rfl
@[simp] theorem setFreq_draws (b : Byte) (v : Word) (s : State) : (s.setFreq b v).draws = s.draws := rfl

/-! ## `freqUnspecified` -/

@[simp] theorem freqUnspecified_phase (s : State) : s.freqUnspecified.phase = s.phase := rfl
@[simp] theorem freqUnspecified_work (s : State) : s.freqUnspecified.work = s.work := rfl
@[simp] theorem freqUnspecified_todo (s : State) : s.freqUnspecified.todo = s.todo := rfl
@[simp] theorem freqUnspecified_done (s : State) : s.freqUnspecified.done = s.done := rfl
@[simp] theorem freqUnspecified_err (s : State) : s.freqUnspecified.err = s.err := rfl
@[simp] theorem freqUnspecified_drop (s : State) : s.freqUnspecified.drop = s.drop := rfl
@[simp] theorem freqUnspecified_errCode (s : State) : s.freqUnspecified.errCode = s.errCode := rfl
@[simp] theorem freqUnspecified_freqValid (s : State) : s.freqUnspecified.freqValid = s.freqValid := rfl
@[simp] theorem freqUnspecified_pqActive (s : State) : s.freqUnspecified.pqActive = s.pqActive := rfl
@[simp] theorem freqUnspecified_treeValid (s : State) : s.freqUnspecified.treeValid = s.treeValid := rfl
@[simp] theorem freqUnspecified_treeSrc (s : State) : s.freqUnspecified.treeSrc = s.treeSrc := rfl
@[simp] theorem freqUnspecified_codesValid (s : State) : s.freqUnspecified.codesValid = s.codesValid := rfl
@[simp] theorem freqUnspecified_eosSeen (s : State) : s.freqUnspecified.eosSeen = s.eosSeen := rfl
@[simp] theorem freqUnspecified_lastOpc (s : State) : s.freqUnspecified.lastOpc = s.lastOpc := rfl
@[simp] theorem freqUnspecified_intEn (s : State) : s.freqUnspecified.intEn = s.intEn := rfl
@[simp] theorem freqUnspecified_root (s : State) : s.freqUnspecified.root = s.root := rfl
@[simp] theorem freqUnspecified_nodeCount (s : State) : s.freqUnspecified.nodeCount = s.nodeCount := rfl
@[simp] theorem freqUnspecified_leafCount (s : State) : s.freqUnspecified.leafCount = s.leafCount := rfl
@[simp] theorem freqUnspecified_errInfo (s : State) : s.freqUnspecified.errInfo = s.errInfo := rfl
@[simp] theorem freqUnspecified_symIn (s : State) : s.freqUnspecified.symIn = s.symIn := rfl
@[simp] theorem freqUnspecified_bitsOut (s : State) : s.freqUnspecified.bitsOut = s.bitsOut := rfl
@[simp] theorem freqUnspecified_bitsIn (s : State) : s.freqUnspecified.bitsIn = s.bitsIn := rfl
@[simp] theorem freqUnspecified_bytesOut (s : State) : s.freqUnspecified.bytesOut = s.bytesOut := rfl
@[simp] theorem freqUnspecified_hdrBits (s : State) : s.freqUnspecified.hdrBits = s.hdrBits := rfl
@[simp] theorem freqUnspecified_tblAddr (s : State) : s.freqUnspecified.tblAddr = s.tblAddr := rfl
@[simp] theorem freqUnspecified_freq (s : State) :
    s.freqUnspecified.freq = (Config.freeFreq s.draws).map fun c => BitVec.ofNat 32 (c.toNat % 2 ^ s.params.wCount) := rfl
@[simp] theorem freqUnspecified_node (s : State) : s.freqUnspecified.node = s.node := rfl
@[simp] theorem freqUnspecified_pq (s : State) : s.freqUnspecified.pq = s.pq := rfl
@[simp] theorem freqUnspecified_ct (s : State) : s.freqUnspecified.ct = s.ct := rfl
@[simp] theorem freqUnspecified_params (s : State) : s.freqUnspecified.params = s.params := rfl
@[simp] theorem freqUnspecified_src (s : State) : s.freqUnspecified.src = s.src := rfl
@[simp] theorem freqUnspecified_bsnk (s : State) : s.freqUnspecified.bsnk = s.bsnk := rfl
@[simp] theorem freqUnspecified_bsrc (s : State) : s.freqUnspecified.bsrc = s.bsrc := rfl
@[simp] theorem freqUnspecified_bysnk (s : State) : s.freqUnspecified.bysnk = s.bysnk := rfl
@[simp] theorem freqUnspecified_host (s : State) : s.freqUnspecified.host = s.host := rfl
@[simp] theorem freqUnspecified_reads (s : State) : s.freqUnspecified.reads = s.reads := rfl
@[simp] theorem freqUnspecified_resetLine (s : State) : s.freqUnspecified.resetLine = s.resetLine := rfl
@[simp] theorem freqUnspecified_sched (s : State) : s.freqUnspecified.sched = s.sched := rfl
@[simp] theorem freqUnspecified_draws (s : State) : s.freqUnspecified.draws = s.draws + 1 := rfl

/-! ## `nodeUnspecified` -/

@[simp] theorem nodeUnspecified_phase (s : State) : s.nodeUnspecified.phase = s.phase := rfl
@[simp] theorem nodeUnspecified_work (s : State) : s.nodeUnspecified.work = s.work := rfl
@[simp] theorem nodeUnspecified_todo (s : State) : s.nodeUnspecified.todo = s.todo := rfl
@[simp] theorem nodeUnspecified_done (s : State) : s.nodeUnspecified.done = s.done := rfl
@[simp] theorem nodeUnspecified_err (s : State) : s.nodeUnspecified.err = s.err := rfl
@[simp] theorem nodeUnspecified_drop (s : State) : s.nodeUnspecified.drop = s.drop := rfl
@[simp] theorem nodeUnspecified_errCode (s : State) : s.nodeUnspecified.errCode = s.errCode := rfl
@[simp] theorem nodeUnspecified_freqValid (s : State) : s.nodeUnspecified.freqValid = s.freqValid := rfl
@[simp] theorem nodeUnspecified_pqActive (s : State) : s.nodeUnspecified.pqActive = s.pqActive := rfl
@[simp] theorem nodeUnspecified_treeValid (s : State) : s.nodeUnspecified.treeValid = s.treeValid := rfl
@[simp] theorem nodeUnspecified_treeSrc (s : State) : s.nodeUnspecified.treeSrc = s.treeSrc := rfl
@[simp] theorem nodeUnspecified_codesValid (s : State) : s.nodeUnspecified.codesValid = s.codesValid := rfl
@[simp] theorem nodeUnspecified_eosSeen (s : State) : s.nodeUnspecified.eosSeen = s.eosSeen := rfl
@[simp] theorem nodeUnspecified_lastOpc (s : State) : s.nodeUnspecified.lastOpc = s.lastOpc := rfl
@[simp] theorem nodeUnspecified_intEn (s : State) : s.nodeUnspecified.intEn = s.intEn := rfl
@[simp] theorem nodeUnspecified_root (s : State) : s.nodeUnspecified.root = s.root := rfl
@[simp] theorem nodeUnspecified_nodeCount (s : State) : s.nodeUnspecified.nodeCount = s.nodeCount := rfl
@[simp] theorem nodeUnspecified_leafCount (s : State) : s.nodeUnspecified.leafCount = s.leafCount := rfl
@[simp] theorem nodeUnspecified_errInfo (s : State) : s.nodeUnspecified.errInfo = s.errInfo := rfl
@[simp] theorem nodeUnspecified_symIn (s : State) : s.nodeUnspecified.symIn = s.symIn := rfl
@[simp] theorem nodeUnspecified_bitsOut (s : State) : s.nodeUnspecified.bitsOut = s.bitsOut := rfl
@[simp] theorem nodeUnspecified_bitsIn (s : State) : s.nodeUnspecified.bitsIn = s.bitsIn := rfl
@[simp] theorem nodeUnspecified_bytesOut (s : State) : s.nodeUnspecified.bytesOut = s.bytesOut := rfl
@[simp] theorem nodeUnspecified_hdrBits (s : State) : s.nodeUnspecified.hdrBits = s.hdrBits := rfl
@[simp] theorem nodeUnspecified_tblAddr (s : State) : s.nodeUnspecified.tblAddr = s.tblAddr := rfl
@[simp] theorem nodeUnspecified_freq (s : State) : s.nodeUnspecified.freq = s.freq := rfl
@[simp] theorem nodeUnspecified_node (s : State) : s.nodeUnspecified.node = Config.freeNodes s.draws := rfl
@[simp] theorem nodeUnspecified_pq (s : State) : s.nodeUnspecified.pq = s.pq := rfl
@[simp] theorem nodeUnspecified_ct (s : State) : s.nodeUnspecified.ct = s.ct := rfl
@[simp] theorem nodeUnspecified_params (s : State) : s.nodeUnspecified.params = s.params := rfl
@[simp] theorem nodeUnspecified_src (s : State) : s.nodeUnspecified.src = s.src := rfl
@[simp] theorem nodeUnspecified_bsnk (s : State) : s.nodeUnspecified.bsnk = s.bsnk := rfl
@[simp] theorem nodeUnspecified_bsrc (s : State) : s.nodeUnspecified.bsrc = s.bsrc := rfl
@[simp] theorem nodeUnspecified_bysnk (s : State) : s.nodeUnspecified.bysnk = s.bysnk := rfl
@[simp] theorem nodeUnspecified_host (s : State) : s.nodeUnspecified.host = s.host := rfl
@[simp] theorem nodeUnspecified_reads (s : State) : s.nodeUnspecified.reads = s.reads := rfl
@[simp] theorem nodeUnspecified_resetLine (s : State) : s.nodeUnspecified.resetLine = s.resetLine := rfl
@[simp] theorem nodeUnspecified_sched (s : State) : s.nodeUnspecified.sched = s.sched := rfl
@[simp] theorem nodeUnspecified_draws (s : State) : s.nodeUnspecified.draws = s.draws + 1 := rfl

/-! ## `ctUnspecified` -/

@[simp] theorem ctUnspecified_phase (s : State) : s.ctUnspecified.phase = s.phase := rfl
@[simp] theorem ctUnspecified_work (s : State) : s.ctUnspecified.work = s.work := rfl
@[simp] theorem ctUnspecified_todo (s : State) : s.ctUnspecified.todo = s.todo := rfl
@[simp] theorem ctUnspecified_done (s : State) : s.ctUnspecified.done = s.done := rfl
@[simp] theorem ctUnspecified_err (s : State) : s.ctUnspecified.err = s.err := rfl
@[simp] theorem ctUnspecified_drop (s : State) : s.ctUnspecified.drop = s.drop := rfl
@[simp] theorem ctUnspecified_errCode (s : State) : s.ctUnspecified.errCode = s.errCode := rfl
@[simp] theorem ctUnspecified_freqValid (s : State) : s.ctUnspecified.freqValid = s.freqValid := rfl
@[simp] theorem ctUnspecified_pqActive (s : State) : s.ctUnspecified.pqActive = s.pqActive := rfl
@[simp] theorem ctUnspecified_treeValid (s : State) : s.ctUnspecified.treeValid = s.treeValid := rfl
@[simp] theorem ctUnspecified_treeSrc (s : State) : s.ctUnspecified.treeSrc = s.treeSrc := rfl
@[simp] theorem ctUnspecified_codesValid (s : State) : s.ctUnspecified.codesValid = s.codesValid := rfl
@[simp] theorem ctUnspecified_eosSeen (s : State) : s.ctUnspecified.eosSeen = s.eosSeen := rfl
@[simp] theorem ctUnspecified_lastOpc (s : State) : s.ctUnspecified.lastOpc = s.lastOpc := rfl
@[simp] theorem ctUnspecified_intEn (s : State) : s.ctUnspecified.intEn = s.intEn := rfl
@[simp] theorem ctUnspecified_root (s : State) : s.ctUnspecified.root = s.root := rfl
@[simp] theorem ctUnspecified_nodeCount (s : State) : s.ctUnspecified.nodeCount = s.nodeCount := rfl
@[simp] theorem ctUnspecified_leafCount (s : State) : s.ctUnspecified.leafCount = s.leafCount := rfl
@[simp] theorem ctUnspecified_errInfo (s : State) : s.ctUnspecified.errInfo = s.errInfo := rfl
@[simp] theorem ctUnspecified_symIn (s : State) : s.ctUnspecified.symIn = s.symIn := rfl
@[simp] theorem ctUnspecified_bitsOut (s : State) : s.ctUnspecified.bitsOut = s.bitsOut := rfl
@[simp] theorem ctUnspecified_bitsIn (s : State) : s.ctUnspecified.bitsIn = s.bitsIn := rfl
@[simp] theorem ctUnspecified_bytesOut (s : State) : s.ctUnspecified.bytesOut = s.bytesOut := rfl
@[simp] theorem ctUnspecified_hdrBits (s : State) : s.ctUnspecified.hdrBits = s.hdrBits := rfl
@[simp] theorem ctUnspecified_tblAddr (s : State) : s.ctUnspecified.tblAddr = s.tblAddr := rfl
@[simp] theorem ctUnspecified_freq (s : State) : s.ctUnspecified.freq = s.freq := rfl
@[simp] theorem ctUnspecified_node (s : State) : s.ctUnspecified.node = s.node := rfl
@[simp] theorem ctUnspecified_pq (s : State) : s.ctUnspecified.pq = s.pq := rfl
@[simp] theorem ctUnspecified_ct (s : State) :
    s.ctUnspecified.ct = (Config.freeCodes s.draws).map (·.take Config.codeMax) := rfl
@[simp] theorem ctUnspecified_params (s : State) : s.ctUnspecified.params = s.params := rfl
@[simp] theorem ctUnspecified_src (s : State) : s.ctUnspecified.src = s.src := rfl
@[simp] theorem ctUnspecified_bsnk (s : State) : s.ctUnspecified.bsnk = s.bsnk := rfl
@[simp] theorem ctUnspecified_bsrc (s : State) : s.ctUnspecified.bsrc = s.bsrc := rfl
@[simp] theorem ctUnspecified_bysnk (s : State) : s.ctUnspecified.bysnk = s.bysnk := rfl
@[simp] theorem ctUnspecified_host (s : State) : s.ctUnspecified.host = s.host := rfl
@[simp] theorem ctUnspecified_reads (s : State) : s.ctUnspecified.reads = s.reads := rfl
@[simp] theorem ctUnspecified_resetLine (s : State) : s.ctUnspecified.resetLine = s.resetLine := rfl
@[simp] theorem ctUnspecified_sched (s : State) : s.ctUnspecified.sched = s.sched := rfl
@[simp] theorem ctUnspecified_draws (s : State) : s.ctUnspecified.draws = s.draws + 1 := rfl

/-! ## `accept` -/

@[simp] theorem accept_phase (w : Word) (k : Work) (s : State) : (accept w k s).phase = .busy (w.extractLsb' 0 8) := rfl
@[simp] theorem accept_work (w : Word) (k : Work) (s : State) : (accept w k s).work = k := rfl
@[simp] theorem accept_todo (w : Word) (k : Work) (s : State) : (accept w k s).todo = [] := rfl
@[simp] theorem accept_done (w : Word) (k : Work) (s : State) : (accept w k s).done = false := rfl
@[simp] theorem accept_err (w : Word) (k : Work) (s : State) : (accept w k s).err = false := rfl
@[simp] theorem accept_drop (w : Word) (k : Work) (s : State) : (accept w k s).drop = s.drop := rfl
@[simp] theorem accept_errCode (w : Word) (k : Work) (s : State) : (accept w k s).errCode = .none := rfl
@[simp] theorem accept_freqValid (w : Word) (k : Work) (s : State) : (accept w k s).freqValid = s.freqValid := rfl
@[simp] theorem accept_pqActive (w : Word) (k : Work) (s : State) : (accept w k s).pqActive = s.pqActive := rfl
@[simp] theorem accept_treeValid (w : Word) (k : Work) (s : State) : (accept w k s).treeValid = s.treeValid := rfl
@[simp] theorem accept_treeSrc (w : Word) (k : Work) (s : State) : (accept w k s).treeSrc = s.treeSrc := rfl
@[simp] theorem accept_codesValid (w : Word) (k : Work) (s : State) : (accept w k s).codesValid = s.codesValid := rfl
@[simp] theorem accept_eosSeen (w : Word) (k : Work) (s : State) : (accept w k s).eosSeen = false := rfl
@[simp] theorem accept_lastOpc (w : Word) (k : Work) (s : State) : (accept w k s).lastOpc = w.extractLsb' 0 8 := rfl
@[simp] theorem accept_intEn (w : Word) (k : Work) (s : State) : (accept w k s).intEn = s.intEn := rfl
@[simp] theorem accept_root (w : Word) (k : Work) (s : State) : (accept w k s).root = s.root := rfl
@[simp] theorem accept_nodeCount (w : Word) (k : Work) (s : State) : (accept w k s).nodeCount = s.nodeCount := rfl
@[simp] theorem accept_leafCount (w : Word) (k : Work) (s : State) : (accept w k s).leafCount = s.leafCount := rfl
@[simp] theorem accept_errInfo (w : Word) (k : Work) (s : State) : (accept w k s).errInfo = ⟨.none, 0⟩ := rfl
@[simp] theorem accept_symIn (w : Word) (k : Work) (s : State) : (accept w k s).symIn = 0 := rfl
@[simp] theorem accept_bitsOut (w : Word) (k : Work) (s : State) : (accept w k s).bitsOut = 0 := rfl
@[simp] theorem accept_bitsIn (w : Word) (k : Work) (s : State) : (accept w k s).bitsIn = 0 := rfl
@[simp] theorem accept_bytesOut (w : Word) (k : Work) (s : State) : (accept w k s).bytesOut = 0 := rfl
@[simp] theorem accept_hdrBits (w : Word) (k : Work) (s : State) : (accept w k s).hdrBits = 0 := rfl
@[simp] theorem accept_tblAddr (w : Word) (k : Work) (s : State) : (accept w k s).tblAddr = s.tblAddr := rfl
@[simp] theorem accept_freq (w : Word) (k : Work) (s : State) : (accept w k s).freq = s.freq := rfl
@[simp] theorem accept_node (w : Word) (k : Work) (s : State) : (accept w k s).node = s.node := rfl
@[simp] theorem accept_pq (w : Word) (k : Work) (s : State) : (accept w k s).pq = s.pq := rfl
@[simp] theorem accept_ct (w : Word) (k : Work) (s : State) : (accept w k s).ct = s.ct := rfl
@[simp] theorem accept_params (w : Word) (k : Work) (s : State) : (accept w k s).params = s.params := rfl
@[simp] theorem accept_src (w : Word) (k : Work) (s : State) : (accept w k s).src = s.src := rfl
@[simp] theorem accept_bsnk (w : Word) (k : Work) (s : State) : (accept w k s).bsnk = s.bsnk := rfl
@[simp] theorem accept_bsrc (w : Word) (k : Work) (s : State) : (accept w k s).bsrc = s.bsrc := rfl
@[simp] theorem accept_bysnk (w : Word) (k : Work) (s : State) : (accept w k s).bysnk = s.bysnk := rfl
@[simp] theorem accept_host (w : Word) (k : Work) (s : State) : (accept w k s).host = s.host := rfl
@[simp] theorem accept_reads (w : Word) (k : Work) (s : State) : (accept w k s).reads = s.reads := rfl
@[simp] theorem accept_resetLine (w : Word) (k : Work) (s : State) : (accept w k s).resetLine = s.resetLine := rfl
@[simp] theorem accept_sched (w : Word) (k : Work) (s : State) : (accept w k s).sched = s.sched := rfl
@[simp] theorem accept_draws (w : Word) (k : Work) (s : State) : (accept w k s).draws = s.draws := rfl

/-! ## `complete` -/

@[simp] theorem complete_phase (s : State) : (complete s).phase = .idle := rfl
@[simp] theorem complete_work (s : State) : (complete s).work = .none := rfl
@[simp] theorem complete_todo (s : State) : (complete s).todo = [] := rfl
@[simp] theorem complete_done (s : State) : (complete s).done = true := rfl
@[simp] theorem complete_err (s : State) : (complete s).err = s.err := rfl
@[simp] theorem complete_drop (s : State) : (complete s).drop = s.drop := rfl
@[simp] theorem complete_errCode (s : State) : (complete s).errCode = s.errCode := rfl
@[simp] theorem complete_freqValid (s : State) : (complete s).freqValid = s.freqValid := rfl
@[simp] theorem complete_pqActive (s : State) : (complete s).pqActive = s.pqActive := rfl
@[simp] theorem complete_treeValid (s : State) : (complete s).treeValid = s.treeValid := rfl
@[simp] theorem complete_treeSrc (s : State) : (complete s).treeSrc = s.treeSrc := rfl
@[simp] theorem complete_codesValid (s : State) : (complete s).codesValid = s.codesValid := rfl
@[simp] theorem complete_eosSeen (s : State) : (complete s).eosSeen = s.eosSeen := rfl
@[simp] theorem complete_lastOpc (s : State) : (complete s).lastOpc = s.lastOpc := rfl
@[simp] theorem complete_intEn (s : State) : (complete s).intEn = s.intEn := rfl
@[simp] theorem complete_root (s : State) : (complete s).root = s.root := rfl
@[simp] theorem complete_nodeCount (s : State) : (complete s).nodeCount = s.nodeCount := rfl
@[simp] theorem complete_leafCount (s : State) : (complete s).leafCount = s.leafCount := rfl
@[simp] theorem complete_errInfo (s : State) : (complete s).errInfo = s.errInfo := rfl
@[simp] theorem complete_symIn (s : State) : (complete s).symIn = s.symIn := rfl
@[simp] theorem complete_bitsOut (s : State) : (complete s).bitsOut = s.bitsOut := rfl
@[simp] theorem complete_bitsIn (s : State) : (complete s).bitsIn = s.bitsIn := rfl
@[simp] theorem complete_bytesOut (s : State) : (complete s).bytesOut = s.bytesOut := rfl
@[simp] theorem complete_hdrBits (s : State) : (complete s).hdrBits = s.hdrBits := rfl
@[simp] theorem complete_tblAddr (s : State) : (complete s).tblAddr = s.tblAddr := rfl
@[simp] theorem complete_freq (s : State) : (complete s).freq = s.freq := rfl
@[simp] theorem complete_node (s : State) : (complete s).node = s.node := rfl
@[simp] theorem complete_pq (s : State) : (complete s).pq = s.pq := rfl
@[simp] theorem complete_ct (s : State) : (complete s).ct = s.ct := rfl
@[simp] theorem complete_params (s : State) : (complete s).params = s.params := rfl
@[simp] theorem complete_src (s : State) : (complete s).src = s.src := rfl
@[simp] theorem complete_bsnk (s : State) : (complete s).bsnk = s.bsnk := rfl
@[simp] theorem complete_bsrc (s : State) : (complete s).bsrc = s.bsrc := rfl
@[simp] theorem complete_bysnk (s : State) : (complete s).bysnk = s.bysnk := rfl
@[simp] theorem complete_host (s : State) : (complete s).host = s.host := rfl
@[simp] theorem complete_reads (s : State) : (complete s).reads = s.reads := rfl
@[simp] theorem complete_resetLine (s : State) : (complete s).resetLine = s.resetLine := rfl
@[simp] theorem complete_sched (s : State) : (complete s).sched = s.sched := rfl
@[simp] theorem complete_draws (s : State) : (complete s).draws = s.draws := rfl

/-! ## `beginPhase` -/

@[simp] theorem beginPhase_phase (i : Instr) (rest : List Instr) (s : State) :
    (beginPhase i rest s).phase = .busy (opcOf i) := rfl
@[simp] theorem beginPhase_work (i : Instr) (rest : List Instr) (s : State) : (beginPhase i rest s).work = .start i := rfl
@[simp] theorem beginPhase_todo (i : Instr) (rest : List Instr) (s : State) : (beginPhase i rest s).todo = rest := rfl
@[simp] theorem beginPhase_done (i : Instr) (rest : List Instr) (s : State) : (beginPhase i rest s).done = s.done := rfl
@[simp] theorem beginPhase_err (i : Instr) (rest : List Instr) (s : State) : (beginPhase i rest s).err = s.err := rfl
@[simp] theorem beginPhase_drop (i : Instr) (rest : List Instr) (s : State) : (beginPhase i rest s).drop = s.drop := rfl
@[simp] theorem beginPhase_errCode (i : Instr) (rest : List Instr) (s : State) :
    (beginPhase i rest s).errCode = s.errCode := rfl
@[simp] theorem beginPhase_freqValid (i : Instr) (rest : List Instr) (s : State) :
    (beginPhase i rest s).freqValid = s.freqValid := rfl
@[simp] theorem beginPhase_pqActive (i : Instr) (rest : List Instr) (s : State) :
    (beginPhase i rest s).pqActive = s.pqActive := rfl
@[simp] theorem beginPhase_treeValid (i : Instr) (rest : List Instr) (s : State) :
    (beginPhase i rest s).treeValid = s.treeValid := rfl
@[simp] theorem beginPhase_treeSrc (i : Instr) (rest : List Instr) (s : State) :
    (beginPhase i rest s).treeSrc = s.treeSrc := rfl
@[simp] theorem beginPhase_codesValid (i : Instr) (rest : List Instr) (s : State) :
    (beginPhase i rest s).codesValid = s.codesValid := rfl
@[simp] theorem beginPhase_eosSeen (i : Instr) (rest : List Instr) (s : State) :
    (beginPhase i rest s).eosSeen = s.eosSeen := rfl
@[simp] theorem beginPhase_lastOpc (i : Instr) (rest : List Instr) (s : State) :
    (beginPhase i rest s).lastOpc = s.lastOpc := rfl
@[simp] theorem beginPhase_intEn (i : Instr) (rest : List Instr) (s : State) : (beginPhase i rest s).intEn = s.intEn := rfl
@[simp] theorem beginPhase_root (i : Instr) (rest : List Instr) (s : State) : (beginPhase i rest s).root = s.root := rfl
@[simp] theorem beginPhase_nodeCount (i : Instr) (rest : List Instr) (s : State) :
    (beginPhase i rest s).nodeCount = s.nodeCount := rfl
@[simp] theorem beginPhase_leafCount (i : Instr) (rest : List Instr) (s : State) :
    (beginPhase i rest s).leafCount = s.leafCount := rfl
@[simp] theorem beginPhase_errInfo (i : Instr) (rest : List Instr) (s : State) :
    (beginPhase i rest s).errInfo = s.errInfo := rfl
@[simp] theorem beginPhase_symIn (i : Instr) (rest : List Instr) (s : State) : (beginPhase i rest s).symIn = s.symIn := rfl
@[simp] theorem beginPhase_bitsOut (i : Instr) (rest : List Instr) (s : State) :
    (beginPhase i rest s).bitsOut = s.bitsOut := rfl
@[simp] theorem beginPhase_bitsIn (i : Instr) (rest : List Instr) (s : State) :
    (beginPhase i rest s).bitsIn = s.bitsIn := rfl
@[simp] theorem beginPhase_bytesOut (i : Instr) (rest : List Instr) (s : State) :
    (beginPhase i rest s).bytesOut = s.bytesOut := rfl
@[simp] theorem beginPhase_hdrBits (i : Instr) (rest : List Instr) (s : State) :
    (beginPhase i rest s).hdrBits = s.hdrBits := rfl
@[simp] theorem beginPhase_tblAddr (i : Instr) (rest : List Instr) (s : State) :
    (beginPhase i rest s).tblAddr = s.tblAddr := rfl
@[simp] theorem beginPhase_freq (i : Instr) (rest : List Instr) (s : State) : (beginPhase i rest s).freq = s.freq := rfl
@[simp] theorem beginPhase_node (i : Instr) (rest : List Instr) (s : State) : (beginPhase i rest s).node = s.node := rfl
@[simp] theorem beginPhase_pq (i : Instr) (rest : List Instr) (s : State) : (beginPhase i rest s).pq = s.pq := rfl
@[simp] theorem beginPhase_ct (i : Instr) (rest : List Instr) (s : State) : (beginPhase i rest s).ct = s.ct := rfl
@[simp] theorem beginPhase_params (i : Instr) (rest : List Instr) (s : State) :
    (beginPhase i rest s).params = s.params := rfl
@[simp] theorem beginPhase_src (i : Instr) (rest : List Instr) (s : State) : (beginPhase i rest s).src = s.src := rfl
@[simp] theorem beginPhase_bsnk (i : Instr) (rest : List Instr) (s : State) : (beginPhase i rest s).bsnk = s.bsnk := rfl
@[simp] theorem beginPhase_bsrc (i : Instr) (rest : List Instr) (s : State) : (beginPhase i rest s).bsrc = s.bsrc := rfl
@[simp] theorem beginPhase_bysnk (i : Instr) (rest : List Instr) (s : State) : (beginPhase i rest s).bysnk = s.bysnk := rfl
@[simp] theorem beginPhase_host (i : Instr) (rest : List Instr) (s : State) : (beginPhase i rest s).host = s.host := rfl
@[simp] theorem beginPhase_reads (i : Instr) (rest : List Instr) (s : State) : (beginPhase i rest s).reads = s.reads := rfl
@[simp] theorem beginPhase_resetLine (i : Instr) (rest : List Instr) (s : State) :
    (beginPhase i rest s).resetLine = s.resetLine := rfl
@[simp] theorem beginPhase_sched (i : Instr) (rest : List Instr) (s : State) : (beginPhase i rest s).sched = s.sched := rfl
@[simp] theorem beginPhase_draws (i : Instr) (rest : List Instr) (s : State) : (beginPhase i rest s).draws = s.draws := rfl

/-! ## `dropCommand` -/

@[simp] theorem dropCommand_phase (s : State) : (dropCommand s).phase = s.phase := rfl
@[simp] theorem dropCommand_work (s : State) : (dropCommand s).work = s.work := rfl
@[simp] theorem dropCommand_todo (s : State) : (dropCommand s).todo = s.todo := rfl
@[simp] theorem dropCommand_done (s : State) : (dropCommand s).done = s.done := rfl
@[simp] theorem dropCommand_err (s : State) : (dropCommand s).err = s.err := rfl
@[simp] theorem dropCommand_drop (s : State) : (dropCommand s).drop = true := rfl
@[simp] theorem dropCommand_errCode (s : State) : (dropCommand s).errCode = s.errCode := rfl
@[simp] theorem dropCommand_freqValid (s : State) : (dropCommand s).freqValid = s.freqValid := rfl
@[simp] theorem dropCommand_pqActive (s : State) : (dropCommand s).pqActive = s.pqActive := rfl
@[simp] theorem dropCommand_treeValid (s : State) : (dropCommand s).treeValid = s.treeValid := rfl
@[simp] theorem dropCommand_treeSrc (s : State) : (dropCommand s).treeSrc = s.treeSrc := rfl
@[simp] theorem dropCommand_codesValid (s : State) : (dropCommand s).codesValid = s.codesValid := rfl
@[simp] theorem dropCommand_eosSeen (s : State) : (dropCommand s).eosSeen = s.eosSeen := rfl
@[simp] theorem dropCommand_lastOpc (s : State) : (dropCommand s).lastOpc = s.lastOpc := rfl
@[simp] theorem dropCommand_intEn (s : State) : (dropCommand s).intEn = s.intEn := rfl
@[simp] theorem dropCommand_root (s : State) : (dropCommand s).root = s.root := rfl
@[simp] theorem dropCommand_nodeCount (s : State) : (dropCommand s).nodeCount = s.nodeCount := rfl
@[simp] theorem dropCommand_leafCount (s : State) : (dropCommand s).leafCount = s.leafCount := rfl
@[simp] theorem dropCommand_errInfo (s : State) : (dropCommand s).errInfo = s.errInfo := rfl
@[simp] theorem dropCommand_symIn (s : State) : (dropCommand s).symIn = s.symIn := rfl
@[simp] theorem dropCommand_bitsOut (s : State) : (dropCommand s).bitsOut = s.bitsOut := rfl
@[simp] theorem dropCommand_bitsIn (s : State) : (dropCommand s).bitsIn = s.bitsIn := rfl
@[simp] theorem dropCommand_bytesOut (s : State) : (dropCommand s).bytesOut = s.bytesOut := rfl
@[simp] theorem dropCommand_hdrBits (s : State) : (dropCommand s).hdrBits = s.hdrBits := rfl
@[simp] theorem dropCommand_tblAddr (s : State) : (dropCommand s).tblAddr = s.tblAddr := rfl
@[simp] theorem dropCommand_freq (s : State) : (dropCommand s).freq = s.freq := rfl
@[simp] theorem dropCommand_node (s : State) : (dropCommand s).node = s.node := rfl
@[simp] theorem dropCommand_pq (s : State) : (dropCommand s).pq = s.pq := rfl
@[simp] theorem dropCommand_ct (s : State) : (dropCommand s).ct = s.ct := rfl
@[simp] theorem dropCommand_params (s : State) : (dropCommand s).params = s.params := rfl
@[simp] theorem dropCommand_src (s : State) : (dropCommand s).src = s.src := rfl
@[simp] theorem dropCommand_bsnk (s : State) : (dropCommand s).bsnk = s.bsnk := rfl
@[simp] theorem dropCommand_bsrc (s : State) : (dropCommand s).bsrc = s.bsrc := rfl
@[simp] theorem dropCommand_bysnk (s : State) : (dropCommand s).bysnk = s.bysnk := rfl
@[simp] theorem dropCommand_host (s : State) : (dropCommand s).host = s.host := rfl
@[simp] theorem dropCommand_reads (s : State) : (dropCommand s).reads = s.reads := rfl
@[simp] theorem dropCommand_resetLine (s : State) : (dropCommand s).resetLine = s.resetLine := rfl
@[simp] theorem dropCommand_sched (s : State) : (dropCommand s).sched = s.sched := rfl
@[simp] theorem dropCommand_draws (s : State) : (dropCommand s).draws = s.draws := rfl

/-! ## `acknowledge` -/

@[simp] theorem acknowledge_phase (w : Word) (s : State) : (acknowledge w s).phase = s.phase := rfl
@[simp] theorem acknowledge_work (w : Word) (s : State) : (acknowledge w s).work = s.work := rfl
@[simp] theorem acknowledge_todo (w : Word) (s : State) : (acknowledge w s).todo = s.todo := rfl
@[simp] theorem acknowledge_done (w : Word) (s : State) : (acknowledge w s).done = (s.done && !w[1]) := rfl
@[simp] theorem acknowledge_err (w : Word) (s : State) : (acknowledge w s).err = (s.err && !w[2]) := rfl
@[simp] theorem acknowledge_drop (w : Word) (s : State) : (acknowledge w s).drop = (s.drop && !w[3]) := rfl
@[simp] theorem acknowledge_errCode (w : Word) (s : State) :
    (acknowledge w s).errCode = (if w[2] then .none else s.errCode) := rfl
@[simp] theorem acknowledge_freqValid (w : Word) (s : State) : (acknowledge w s).freqValid = s.freqValid := rfl
@[simp] theorem acknowledge_pqActive (w : Word) (s : State) : (acknowledge w s).pqActive = s.pqActive := rfl
@[simp] theorem acknowledge_treeValid (w : Word) (s : State) : (acknowledge w s).treeValid = s.treeValid := rfl
@[simp] theorem acknowledge_treeSrc (w : Word) (s : State) : (acknowledge w s).treeSrc = s.treeSrc := rfl
@[simp] theorem acknowledge_codesValid (w : Word) (s : State) : (acknowledge w s).codesValid = s.codesValid := rfl
@[simp] theorem acknowledge_eosSeen (w : Word) (s : State) : (acknowledge w s).eosSeen = s.eosSeen := rfl
@[simp] theorem acknowledge_lastOpc (w : Word) (s : State) : (acknowledge w s).lastOpc = s.lastOpc := rfl
@[simp] theorem acknowledge_intEn (w : Word) (s : State) : (acknowledge w s).intEn = s.intEn := rfl
@[simp] theorem acknowledge_root (w : Word) (s : State) : (acknowledge w s).root = s.root := rfl
@[simp] theorem acknowledge_nodeCount (w : Word) (s : State) : (acknowledge w s).nodeCount = s.nodeCount := rfl
@[simp] theorem acknowledge_leafCount (w : Word) (s : State) : (acknowledge w s).leafCount = s.leafCount := rfl
@[simp] theorem acknowledge_errInfo (w : Word) (s : State) :
    (acknowledge w s).errInfo = (if w[2] then ⟨.none, 0⟩ else s.errInfo) := rfl
@[simp] theorem acknowledge_symIn (w : Word) (s : State) : (acknowledge w s).symIn = s.symIn := rfl
@[simp] theorem acknowledge_bitsOut (w : Word) (s : State) : (acknowledge w s).bitsOut = s.bitsOut := rfl
@[simp] theorem acknowledge_bitsIn (w : Word) (s : State) : (acknowledge w s).bitsIn = s.bitsIn := rfl
@[simp] theorem acknowledge_bytesOut (w : Word) (s : State) : (acknowledge w s).bytesOut = s.bytesOut := rfl
@[simp] theorem acknowledge_hdrBits (w : Word) (s : State) : (acknowledge w s).hdrBits = s.hdrBits := rfl
@[simp] theorem acknowledge_tblAddr (w : Word) (s : State) : (acknowledge w s).tblAddr = s.tblAddr := rfl
@[simp] theorem acknowledge_freq (w : Word) (s : State) : (acknowledge w s).freq = s.freq := rfl
@[simp] theorem acknowledge_node (w : Word) (s : State) : (acknowledge w s).node = s.node := rfl
@[simp] theorem acknowledge_pq (w : Word) (s : State) : (acknowledge w s).pq = s.pq := rfl
@[simp] theorem acknowledge_ct (w : Word) (s : State) : (acknowledge w s).ct = s.ct := rfl
@[simp] theorem acknowledge_params (w : Word) (s : State) : (acknowledge w s).params = s.params := rfl
@[simp] theorem acknowledge_src (w : Word) (s : State) : (acknowledge w s).src = s.src := rfl
@[simp] theorem acknowledge_bsnk (w : Word) (s : State) : (acknowledge w s).bsnk = s.bsnk := rfl
@[simp] theorem acknowledge_bsrc (w : Word) (s : State) : (acknowledge w s).bsrc = s.bsrc := rfl
@[simp] theorem acknowledge_bysnk (w : Word) (s : State) : (acknowledge w s).bysnk = s.bysnk := rfl
@[simp] theorem acknowledge_host (w : Word) (s : State) : (acknowledge w s).host = s.host := rfl
@[simp] theorem acknowledge_reads (w : Word) (s : State) : (acknowledge w s).reads = s.reads := rfl
@[simp] theorem acknowledge_resetLine (w : Word) (s : State) : (acknowledge w s).resetLine = s.resetLine := rfl
@[simp] theorem acknowledge_sched (w : Word) (s : State) : (acknowledge w s).sched = s.sched := rfl
@[simp] theorem acknowledge_draws (w : Word) (s : State) : (acknowledge w s).draws = s.draws := rfl

/-! ## `pqInsert` -/

@[simp] theorem pqInsert_phase (i : NodeIdx) (s : State) : (pqInsert i s).phase = s.phase := rfl
@[simp] theorem pqInsert_work (i : NodeIdx) (s : State) : (pqInsert i s).work = s.work := rfl
@[simp] theorem pqInsert_todo (i : NodeIdx) (s : State) : (pqInsert i s).todo = s.todo := rfl
@[simp] theorem pqInsert_done (i : NodeIdx) (s : State) : (pqInsert i s).done = s.done := rfl
@[simp] theorem pqInsert_err (i : NodeIdx) (s : State) : (pqInsert i s).err = s.err := rfl
@[simp] theorem pqInsert_drop (i : NodeIdx) (s : State) : (pqInsert i s).drop = s.drop := rfl
@[simp] theorem pqInsert_errCode (i : NodeIdx) (s : State) : (pqInsert i s).errCode = s.errCode := rfl
@[simp] theorem pqInsert_freqValid (i : NodeIdx) (s : State) : (pqInsert i s).freqValid = s.freqValid := rfl
@[simp] theorem pqInsert_pqActive (i : NodeIdx) (s : State) : (pqInsert i s).pqActive = s.pqActive := rfl
@[simp] theorem pqInsert_treeValid (i : NodeIdx) (s : State) : (pqInsert i s).treeValid = s.treeValid := rfl
@[simp] theorem pqInsert_treeSrc (i : NodeIdx) (s : State) : (pqInsert i s).treeSrc = s.treeSrc := rfl
@[simp] theorem pqInsert_codesValid (i : NodeIdx) (s : State) : (pqInsert i s).codesValid = s.codesValid := rfl
@[simp] theorem pqInsert_eosSeen (i : NodeIdx) (s : State) : (pqInsert i s).eosSeen = s.eosSeen := rfl
@[simp] theorem pqInsert_lastOpc (i : NodeIdx) (s : State) : (pqInsert i s).lastOpc = s.lastOpc := rfl
@[simp] theorem pqInsert_intEn (i : NodeIdx) (s : State) : (pqInsert i s).intEn = s.intEn := rfl
@[simp] theorem pqInsert_root (i : NodeIdx) (s : State) : (pqInsert i s).root = s.root := rfl
@[simp] theorem pqInsert_nodeCount (i : NodeIdx) (s : State) : (pqInsert i s).nodeCount = s.nodeCount := rfl
@[simp] theorem pqInsert_leafCount (i : NodeIdx) (s : State) : (pqInsert i s).leafCount = s.leafCount := rfl
@[simp] theorem pqInsert_errInfo (i : NodeIdx) (s : State) : (pqInsert i s).errInfo = s.errInfo := rfl
@[simp] theorem pqInsert_symIn (i : NodeIdx) (s : State) : (pqInsert i s).symIn = s.symIn := rfl
@[simp] theorem pqInsert_bitsOut (i : NodeIdx) (s : State) : (pqInsert i s).bitsOut = s.bitsOut := rfl
@[simp] theorem pqInsert_bitsIn (i : NodeIdx) (s : State) : (pqInsert i s).bitsIn = s.bitsIn := rfl
@[simp] theorem pqInsert_bytesOut (i : NodeIdx) (s : State) : (pqInsert i s).bytesOut = s.bytesOut := rfl
@[simp] theorem pqInsert_hdrBits (i : NodeIdx) (s : State) : (pqInsert i s).hdrBits = s.hdrBits := rfl
@[simp] theorem pqInsert_tblAddr (i : NodeIdx) (s : State) : (pqInsert i s).tblAddr = s.tblAddr := rfl
@[simp] theorem pqInsert_freq (i : NodeIdx) (s : State) : (pqInsert i s).freq = s.freq := rfl
@[simp] theorem pqInsert_node (i : NodeIdx) (s : State) : (pqInsert i s).node = s.node := rfl
@[simp] theorem pqInsert_pq (i : NodeIdx) (s : State) : (pqInsert i s).pq = insertIdx i s.pq := rfl
@[simp] theorem pqInsert_ct (i : NodeIdx) (s : State) : (pqInsert i s).ct = s.ct := rfl
@[simp] theorem pqInsert_params (i : NodeIdx) (s : State) : (pqInsert i s).params = s.params := rfl
@[simp] theorem pqInsert_src (i : NodeIdx) (s : State) : (pqInsert i s).src = s.src := rfl
@[simp] theorem pqInsert_bsnk (i : NodeIdx) (s : State) : (pqInsert i s).bsnk = s.bsnk := rfl
@[simp] theorem pqInsert_bsrc (i : NodeIdx) (s : State) : (pqInsert i s).bsrc = s.bsrc := rfl
@[simp] theorem pqInsert_bysnk (i : NodeIdx) (s : State) : (pqInsert i s).bysnk = s.bysnk := rfl
@[simp] theorem pqInsert_host (i : NodeIdx) (s : State) : (pqInsert i s).host = s.host := rfl
@[simp] theorem pqInsert_reads (i : NodeIdx) (s : State) : (pqInsert i s).reads = s.reads := rfl
@[simp] theorem pqInsert_resetLine (i : NodeIdx) (s : State) : (pqInsert i s).resetLine = s.resetLine := rfl
@[simp] theorem pqInsert_sched (i : NodeIdx) (s : State) : (pqInsert i s).sched = s.sched := rfl
@[simp] theorem pqInsert_draws (i : NodeIdx) (s : State) : (pqInsert i s).draws = s.draws := rfl

/-! ## `popEvent` -/

@[simp] theorem popEvent_phase (s : State) : (popEvent s).phase = s.phase := rfl
@[simp] theorem popEvent_work (s : State) : (popEvent s).work = s.work := rfl
@[simp] theorem popEvent_todo (s : State) : (popEvent s).todo = s.todo := rfl
@[simp] theorem popEvent_done (s : State) : (popEvent s).done = s.done := rfl
@[simp] theorem popEvent_err (s : State) : (popEvent s).err = s.err := rfl
@[simp] theorem popEvent_drop (s : State) : (popEvent s).drop = s.drop := rfl
@[simp] theorem popEvent_errCode (s : State) : (popEvent s).errCode = s.errCode := rfl
@[simp] theorem popEvent_freqValid (s : State) : (popEvent s).freqValid = s.freqValid := rfl
@[simp] theorem popEvent_pqActive (s : State) : (popEvent s).pqActive = s.pqActive := rfl
@[simp] theorem popEvent_treeValid (s : State) : (popEvent s).treeValid = s.treeValid := rfl
@[simp] theorem popEvent_treeSrc (s : State) : (popEvent s).treeSrc = s.treeSrc := rfl
@[simp] theorem popEvent_codesValid (s : State) : (popEvent s).codesValid = s.codesValid := rfl
@[simp] theorem popEvent_eosSeen (s : State) : (popEvent s).eosSeen = s.eosSeen := rfl
@[simp] theorem popEvent_lastOpc (s : State) : (popEvent s).lastOpc = s.lastOpc := rfl
@[simp] theorem popEvent_intEn (s : State) : (popEvent s).intEn = s.intEn := rfl
@[simp] theorem popEvent_root (s : State) : (popEvent s).root = s.root := rfl
@[simp] theorem popEvent_nodeCount (s : State) : (popEvent s).nodeCount = s.nodeCount := rfl
@[simp] theorem popEvent_leafCount (s : State) : (popEvent s).leafCount = s.leafCount := rfl
@[simp] theorem popEvent_errInfo (s : State) : (popEvent s).errInfo = s.errInfo := rfl
@[simp] theorem popEvent_symIn (s : State) : (popEvent s).symIn = s.symIn := rfl
@[simp] theorem popEvent_bitsOut (s : State) : (popEvent s).bitsOut = s.bitsOut := rfl
@[simp] theorem popEvent_bitsIn (s : State) : (popEvent s).bitsIn = s.bitsIn := rfl
@[simp] theorem popEvent_bytesOut (s : State) : (popEvent s).bytesOut = s.bytesOut := rfl
@[simp] theorem popEvent_hdrBits (s : State) : (popEvent s).hdrBits = s.hdrBits := rfl
@[simp] theorem popEvent_tblAddr (s : State) : (popEvent s).tblAddr = s.tblAddr := rfl
@[simp] theorem popEvent_freq (s : State) : (popEvent s).freq = s.freq := rfl
@[simp] theorem popEvent_node (s : State) : (popEvent s).node = s.node := rfl
@[simp] theorem popEvent_pq (s : State) : (popEvent s).pq = s.pq := rfl
@[simp] theorem popEvent_ct (s : State) : (popEvent s).ct = s.ct := rfl
@[simp] theorem popEvent_params (s : State) : (popEvent s).params = s.params := rfl
@[simp] theorem popEvent_src (s : State) : (popEvent s).src = s.src := rfl
@[simp] theorem popEvent_bsnk (s : State) : (popEvent s).bsnk = s.bsnk := rfl
@[simp] theorem popEvent_bsrc (s : State) : (popEvent s).bsrc = s.bsrc := rfl
@[simp] theorem popEvent_bysnk (s : State) : (popEvent s).bysnk = s.bysnk := rfl
@[simp] theorem popEvent_host (s : State) : (popEvent s).host = s.host.tail := rfl
@[simp] theorem popEvent_reads (s : State) : (popEvent s).reads = s.reads := rfl
@[simp] theorem popEvent_resetLine (s : State) : (popEvent s).resetLine = s.resetLine := rfl
@[simp] theorem popEvent_sched (s : State) : (popEvent s).sched = s.sched := rfl
@[simp] theorem popEvent_draws (s : State) : (popEvent s).draws = s.draws := rfl

/-! ## `finished` -/

@[simp] theorem finished_phase (o : Byte) (s : State) : (finished o s).phase = .idle := rfl
@[simp] theorem finished_work (o : Byte) (s : State) : (finished o s).work = .none := rfl
@[simp] theorem finished_todo (o : Byte) (s : State) : (finished o s).todo = [] := rfl
@[simp] theorem finished_done (o : Byte) (s : State) : (finished o s).done = true := rfl
@[simp] theorem finished_err (o : Byte) (s : State) : (finished o s).err = false := rfl
@[simp] theorem finished_drop (o : Byte) (s : State) : (finished o s).drop = s.drop := rfl
@[simp] theorem finished_errCode (o : Byte) (s : State) : (finished o s).errCode = .none := rfl
@[simp] theorem finished_freqValid (o : Byte) (s : State) : (finished o s).freqValid = s.freqValid := rfl
@[simp] theorem finished_pqActive (o : Byte) (s : State) : (finished o s).pqActive = s.pqActive := rfl
@[simp] theorem finished_treeValid (o : Byte) (s : State) : (finished o s).treeValid = s.treeValid := rfl
@[simp] theorem finished_treeSrc (o : Byte) (s : State) : (finished o s).treeSrc = s.treeSrc := rfl
@[simp] theorem finished_codesValid (o : Byte) (s : State) : (finished o s).codesValid = s.codesValid := rfl
@[simp] theorem finished_eosSeen (o : Byte) (s : State) : (finished o s).eosSeen = false := rfl
@[simp] theorem finished_lastOpc (o : Byte) (s : State) : (finished o s).lastOpc = o := rfl
@[simp] theorem finished_intEn (o : Byte) (s : State) : (finished o s).intEn = s.intEn := rfl
@[simp] theorem finished_root (o : Byte) (s : State) : (finished o s).root = s.root := rfl
@[simp] theorem finished_nodeCount (o : Byte) (s : State) : (finished o s).nodeCount = s.nodeCount := rfl
@[simp] theorem finished_leafCount (o : Byte) (s : State) : (finished o s).leafCount = s.leafCount := rfl
@[simp] theorem finished_errInfo (o : Byte) (s : State) : (finished o s).errInfo = ⟨.none, 0⟩ := rfl
@[simp] theorem finished_symIn (o : Byte) (s : State) : (finished o s).symIn = 0 := rfl
@[simp] theorem finished_bitsOut (o : Byte) (s : State) : (finished o s).bitsOut = 0 := rfl
@[simp] theorem finished_bitsIn (o : Byte) (s : State) : (finished o s).bitsIn = 0 := rfl
@[simp] theorem finished_bytesOut (o : Byte) (s : State) : (finished o s).bytesOut = 0 := rfl
@[simp] theorem finished_hdrBits (o : Byte) (s : State) : (finished o s).hdrBits = 0 := rfl
@[simp] theorem finished_tblAddr (o : Byte) (s : State) : (finished o s).tblAddr = s.tblAddr := rfl
@[simp] theorem finished_freq (o : Byte) (s : State) : (finished o s).freq = s.freq := rfl
@[simp] theorem finished_node (o : Byte) (s : State) : (finished o s).node = s.node := rfl
@[simp] theorem finished_pq (o : Byte) (s : State) : (finished o s).pq = s.pq := rfl
@[simp] theorem finished_ct (o : Byte) (s : State) : (finished o s).ct = s.ct := rfl
@[simp] theorem finished_params (o : Byte) (s : State) : (finished o s).params = s.params := rfl
@[simp] theorem finished_src (o : Byte) (s : State) : (finished o s).src = s.src := rfl
@[simp] theorem finished_bsnk (o : Byte) (s : State) : (finished o s).bsnk = s.bsnk := rfl
@[simp] theorem finished_bsrc (o : Byte) (s : State) : (finished o s).bsrc = s.bsrc := rfl
@[simp] theorem finished_bysnk (o : Byte) (s : State) : (finished o s).bysnk = s.bysnk := rfl
@[simp] theorem finished_host (o : Byte) (s : State) : (finished o s).host = s.host := rfl
@[simp] theorem finished_reads (o : Byte) (s : State) : (finished o s).reads = s.reads := rfl
@[simp] theorem finished_resetLine (o : Byte) (s : State) : (finished o s).resetLine = s.resetLine := rfl
@[simp] theorem finished_sched (o : Byte) (s : State) : (finished o s).sched = s.sched := rfl
@[simp] theorem finished_draws (o : Byte) (s : State) : (finished o s).draws = s.draws := rfl

end Sys2Proof.Machine
end

