-- ==== Sys2Proof/Laws/Ops.lean ====
section
/-! SUPPORT. What the shared operations of Machine/Ops.lean do, each said once: table accesses, `raise`, `phaseDone`. -/

namespace Sys2Proof.Machine

/-! ## Tables -/

theorem nodeAt_of_lt (s : State) (i : NodeIdx) (h : i.toNat < 513) : s.nodeAt i = s.node[i.toNat] := by
  simp [State.nodeAt, h]

/-- The entry written reads back. -/
theorem nodeAt_setNode_self (s : State) (i : NodeIdx) (n : Node) (h : i.toNat < 513) :
    (s.setNode i n).nodeAt i = n := by
  simp [State.nodeAt, State.setNode, h]

/-- Another entry reads as before. -/
theorem nodeAt_setNode_ne (s : State) {i j : NodeIdx} (n : Node) (h : i ≠ j) :
    (s.setNode i n).nodeAt j = s.nodeAt j := by
  have hij : i.toNat ≠ j.toNat := fun e => h (BitVec.eq_of_toNat_eq e)
  unfold State.nodeAt
  split
  · simp [Vector.getElem_setIfInBounds_ne _ hij]
  · rfl

/-- Entries are read from the pool alone. -/
theorem nodeAt_congr {s t : State} (h : s.node = t.node) (i : NodeIdx) : s.nodeAt i = t.nodeAt i := by
  simp [State.nodeAt, h]

theorem freqOf_setFreq_self (s : State) (b : Byte) (v : Word) : (s.setFreq b v).freqOf b = v := by
  simp [State.freqOf]

theorem freqOf_setFreq_ne (s : State) {b c : Byte} (v : Word) (h : b ≠ c) :
    (s.setFreq b v).freqOf c = s.freqOf c := by
  have hbc : b.toNat ≠ c.toNat := fun e => h (BitVec.eq_of_toNat_eq e)
  simp [State.freqOf, Vector.getElem_set_ne _ _ hbc]

/-! ## The life of a command -/

/-- STATUS.BUSY is 0 exactly when PHASE is IDLE (R21). -/
@[simp] theorem busy_eq_false_iff (s : State) : s.busy = false ↔ s.phase = .idle := by
  simp [State.busy]

theorem busy_of_phase {s : State} {op : Byte} (h : s.phase = .busy op) : s.busy = true := by
  simp [State.busy, h]

theorem phaseDone_last {s : State} (h : s.todo = []) : phaseDone s = complete s := by
  simp [phaseDone, h]

theorem phaseDone_more {s : State} {i : Instr} {rest : List Instr} (h : s.todo = i :: rest) :
    phaseDone s = beginPhase i rest s := by
  simp [phaseDone, h]

/-- Everything `phaseDone` can do: it changes the sequencer and DONE, nothing else. -/
theorem phaseDone_frame (s : State) : ∃ ph wk td dn,
    phaseDone s = { s with phase := ph, work := wk, todo := td, done := dn } := by
  unfold phaseDone
  split
  · exact ⟨_, _, _, _, rfl⟩
  · exact ⟨_, _, _, _, rfl⟩

/-- Everything `spoil` can do: the table a failing command had begun to fill gets free contents. -/
theorem spoil_cases (s : State) :
    (s.work = .countRead ∧ spoil s = s.freqUnspecified) ∨
    (s.work.inRdhdr = true ∧ spoil s = s.nodeUnspecified) ∨
    (s.work ≠ .countRead ∧ s.work.inRdhdr = false ∧ spoil s = s) := by
  unfold spoil Work.inRdhdr
  cases s.work <;> simp

/-- Everything `raise` can do, whatever was running (R193). -/
theorem raise_frame (e : ErrCode) (q : PortId) (s : State) : ∃ f n d,
    raise e q s = { s with
      errCode := e, errInfo := ⟨q, s.phaseOpc⟩, err := true, done := true
      phase := .idle, work := .none, todo := [], freq := f, node := n, draws := d } := by
  obtain ⟨-, h⟩ | ⟨-, h⟩ | ⟨-, -, h⟩ := spoil_cases s
  all_goals exact ⟨_, _, _, by simp only [raise, h]; rfl⟩

/-- `raise` where the command has begun to fill no table. -/
theorem raise_of_filling_none (e : ErrCode) (q : PortId) (s : State) (hc : s.work ≠ .countRead)
    (hr : s.work.inRdhdr = false) :
    raise e q s = { s with
      errCode := e, errInfo := ⟨q, s.phaseOpc⟩, err := true, done := true
      phase := .idle, work := .none, todo := [] } := by
  obtain ⟨h, -⟩ | ⟨h, -⟩ | ⟨-, -, h⟩ := spoil_cases s
  · exact absurd h hc
  · simp [h] at hr
  · simp [raise, h]

@[simp] theorem raise_phase (e : ErrCode) (q : PortId) (s : State) : (raise e q s).phase = .idle := rfl
@[simp] theorem raise_work (e : ErrCode) (q : PortId) (s : State) : (raise e q s).work = .none := rfl
@[simp] theorem raise_todo (e : ErrCode) (q : PortId) (s : State) : (raise e q s).todo = [] := rfl
@[simp] theorem raise_done (e : ErrCode) (q : PortId) (s : State) : (raise e q s).done = true := rfl
@[simp] theorem raise_err (e : ErrCode) (q : PortId) (s : State) : (raise e q s).err = true := rfl
@[simp] theorem raise_errCode (e : ErrCode) (q : PortId) (s : State) : (raise e q s).errCode = e := rfl
@[simp] theorem raise_errInfo (e : ErrCode) (q : PortId) (s : State) :
    (raise e q s).errInfo = ⟨q, s.phaseOpc⟩ := rfl

/-- A command that fails right after acceptance leaves what `failed` says. -/
theorem raise_accept (w : Word) (i : Instr) (e : ErrCode) (q : PortId) (s : State) :
    raise e q (accept w (.start i) s) = failed (w.extractLsb' 0 8) e q s := rfl

/-- A command that completes right after acceptance leaves what `finished` says. -/
theorem complete_accept (w : Word) (k : Work) (s : State) :
    complete (accept w k s) = finished (w.extractLsb' 0 8) s := rfl

/-- The low byte of a command's word is its opcode. -/
@[simp] theorem commandWord_low (i : Instr) : (commandWord i).extractLsb' 0 8 = opcOf i := by
  cases i <;> rfl

end Sys2Proof.Machine
end

