-- ==== Sys2Proof/Laws/Operands.lean ====
section
/-! SUPPORT. What a port transaction and the port procedures do, each said once: when they are answered, when they end in `IOERR`,
when there is no response. -/

namespace Sys2Proof.Machine

/-! ## How a transaction is answered -/

theorem nextReply_of_answers {rs : List Reply} (h : Answers rs) : nextReply rs = .answer := by
  cases rs with
  | nil => rfl
  | cons r rs => exact h r (by simp)

theorem Answers.tail {rs : List Reply} (h : Answers rs) : Answers rs.tail :=
  fun r hr => h r (List.mem_of_mem_tail hr)

theorem Answers.drop {rs : List Reply} (h : Answers rs) (k : Nat) : Answers (rs.drop k) :=
  fun r hr => h r (List.mem_of_mem_drop hr)

theorem nextReply_ne_silent {rs : List Reply} (h : NeverSilent rs) : nextReply rs ≠ .silent := by
  cases rs with
  | nil => simp [nextReply]
  | cons r rs => exact h r (by simp)

theorem NeverSilent.tail {rs : List Reply} (h : NeverSilent rs) : NeverSilent rs.tail :=
  fun r hr => h r (List.mem_of_mem_tail hr)

/-! ## SRC -/

theorem srcRead_data {s : State} {b : Byte} (h : nextReply s.src.replies = .answer)
    (hb : s.src.data[s.src.pos]? = some b) :
    srcRead s = (.data b, { s with src := ⟨s.src.data, s.src.pos + 1, s.src.replies.tail⟩ }) := by
  simp [srcRead, h, hb]

theorem srcRead_eos {s : State} (h : nextReply s.src.replies = .answer) (hb : s.src.data.length ≤ s.src.pos) :
    srcRead s = (.eos, { s with src := ⟨s.src.data, s.src.pos, s.src.replies.tail⟩ }) := by
  simp [srcRead, h, List.getElem?_eq_none hb]

/-- Everything `SrcRead8` can do: it moves the read position and takes one response, nothing else but the count of free values. -/
theorem srcRead_frame (s : State) : ∃ r pos rs d,
    srcRead s = (r, { s with src := ⟨s.src.data, pos, rs⟩, draws := d }) := by
  unfold srcRead
  split
  · exact ⟨_, _, _, _, rfl⟩
  · exact ⟨_, _, _, _, rfl⟩
  · split <;> exact ⟨_, _, _, _, rfl⟩

theorem srcRewind_ok {s : State} (h : nextReply s.src.replies = .answer) :
    srcRewind s = (.ok, { s with src := ⟨s.src.data, 0, s.src.replies.tail⟩ }) := by
  simp [srcRewind, h]

/-- Everything `SrcRewind` can do. -/
theorem srcRewind_frame (s : State) : ∃ r pos rs d,
    srcRewind s = (r, { s with src := ⟨s.src.data, pos, rs⟩, draws := d }) := by
  unfold srcRewind
  split <;> exact ⟨_, _, _, _, rfl⟩

/-! ## BSNK -/

theorem sinkWrite_ok {s : State} (c : Bits) (h : nextReply s.bsnk.replies = .answer) :
    sinkWrite c s = (.ok, { s with bsnk := ⟨s.bsnk.bits ++ c, s.bsnk.replies.tail⟩ }) := by
  simp [sinkWrite, h]

/-- Everything `SinkWrite` can do: it appends a prefix of the bits, all of them when it is answered `OK`. -/
theorem sinkWrite_frame (c : Bits) (s : State) : ∃ r k rs d,
    sinkWrite c s = (r, { s with bsnk := ⟨s.bsnk.bits ++ c.take k, rs⟩, draws := d }) := by
  unfold sinkWrite
  split
  · exact ⟨.silent, 0, s.bsnk.replies, s.draws, by simp⟩
  · exact ⟨_, _, _, _, rfl⟩
  · exact ⟨.ok, c.length, s.bsnk.replies.tail, s.draws, by simp⟩

theorem put_ok {s : State} (c : Bits) (h : nextReply s.bsnk.replies = .answer) :
    put c s = .go () { s with
      bsnk := ⟨s.bsnk.bits ++ c, s.bsnk.replies.tail⟩
      bitsOut := s.bitsOut + BitVec.ofNat 64 c.length } := by
  simp [put, sinkWrite_ok c h]

theorem put_ioerr {s : State} (c : Bits) (h : nextReply s.bsnk.replies = .ioerr) : ∃ k,
    put c s = .stop (raise .upstreamIo .bsnk { s with
      bsnk := ⟨s.bsnk.bits ++ c.take k, s.bsnk.replies.tail⟩, draws := s.draws + 1 }) := by
  exact ⟨_, by simp only [put, sinkWrite, h]; rfl⟩

theorem put_silent {s : State} (c : Bits) (h : nextReply s.bsnk.replies = .silent) : put c s = .stop s := by
  simp [put, sinkWrite, h]

theorem emit_ok {s : State} (c : Bits) (h : nextReply s.bsnk.replies = .answer) :
    emit c s = .go () { s with
      bsnk := ⟨s.bsnk.bits ++ c, s.bsnk.replies.tail⟩
      bitsOut := s.bitsOut + BitVec.ofNat 64 c.length } := by
  simp [emit, h]

theorem emit_ioerr {s : State} (c : Bits) (h : nextReply s.bsnk.replies = .ioerr) : ∃ k n,
    emit c s = .stop (raise .upstreamIo .bsnk { s with
      bsnk := ⟨s.bsnk.bits ++ c.take k, s.bsnk.replies.tail⟩
      bitsOut := s.bitsOut + BitVec.ofNat 64 n, draws := s.draws + 2 }) := by
  exact ⟨_, _, by simp only [emit, h]; rfl⟩

theorem emit_silent {s : State} (c : Bits) (h : nextReply s.bsnk.replies = .silent) : emit c s = .stop s := by
  simp [emit, h]

/-! ## BSRC -/

theorem bitRead_data {s : State} {n : Nat} (h : nextReply s.bsrc.replies = .answer)
    (hn : n ≤ s.bsrcRest.length) :
    bitRead n s = (.data (num (s.bsrcRest.take n)),
      { s with bsrc := ⟨s.bsrc.bits, s.bsrc.pos + n, s.bsrc.replies.tail⟩ }) := by
  simp [bitRead, h, hn]

/-- Everything `BitRead` can do: it moves the read position and takes one response, nothing else but the count of free values. -/
theorem bitRead_frame (n : Nat) (s : State) : ∃ r pos rs d,
    bitRead n s = (r, { s with bsrc := ⟨s.bsrc.bits, pos, rs⟩, draws := d }) := by
  unfold bitRead
  split
  · exact ⟨_, _, _, _, rfl⟩
  · exact ⟨_, _, _, _, rfl⟩
  · split <;> exact ⟨_, _, _, _, rfl⟩

/-- The bits left after a read of `n`. -/
theorem bsrcRest_advance (s : State) (n : Nat) (rs : List Reply) :
    ({ s with bsrc := ⟨s.bsrc.bits, s.bsrc.pos + n, rs⟩ } : State).bsrcRest = s.bsrcRest.drop n := by
  simp [State.bsrcRest, List.drop_drop]

theorem get_data {s : State} {n : Nat} (e : ErrCode) (h : nextReply s.bsrc.replies = .answer)
    (hn : n ≤ s.bsrcRest.length) :
    get n e s = .go (num (s.bsrcRest.take n)) { s with
      bsrc := ⟨s.bsrc.bits, s.bsrc.pos + n, s.bsrc.replies.tail⟩
      bitsIn := s.bitsIn + BitVec.ofNat 64 n } := by
  simp [get, bitRead_data h hn]

theorem get_eos {s : State} {n : Nat} (e : ErrCode) (h : nextReply s.bsrc.replies = .answer)
    (hn : s.bsrcRest.length < n) : ∃ pos,
    get n e s = .stop (raise e .bsrc { s with
      bsrc := ⟨s.bsrc.bits, pos, s.bsrc.replies.tail⟩, draws := s.draws + 1 }) := by
  exact ⟨_, by simp only [get, bitRead, h, if_neg (Nat.not_le.mpr hn)]; rfl⟩

theorem get_ioerr {s : State} (n : Nat) (e : ErrCode) (h : nextReply s.bsrc.replies = .ioerr) : ∃ pos,
    get n e s = .stop (raise .upstreamIo .bsrc { s with
      bsrc := ⟨s.bsrc.bits, pos, s.bsrc.replies.tail⟩, draws := s.draws + 1 }) := by
  exact ⟨_, by simp only [get, bitRead, h]; rfl⟩

theorem get_silent {s : State} (n : Nat) (e : ErrCode) (h : nextReply s.bsrc.replies = .silent) :
    get n e s = .stop s := by
  simp [get, bitRead, h]

/-! ## BYSNK -/

theorem byteWrite_ok {s : State} (v : Byte) (h : nextReply s.bysnk.replies = .answer) :
    byteWrite v s = (.ok, { s with bysnk := ⟨s.bysnk.bytes ++ [v], s.bysnk.replies.tail⟩ }) := by
  simp [byteWrite, h]

/-- Everything `ByteWrite` can do: it appends the byte or not, and takes one response. -/
theorem byteWrite_frame (v : Byte) (s : State) : ∃ r k rs d,
    byteWrite v s = (r, { s with bysnk := ⟨s.bysnk.bytes ++ [v].take k, rs⟩, draws := d }) := by
  unfold byteWrite
  split
  · exact ⟨.silent, 0, s.bysnk.replies, s.draws, by simp⟩
  · exact ⟨_, _, _, _, rfl⟩
  · exact ⟨.ok, 1, s.bysnk.replies.tail, s.draws, by simp⟩

end Sys2Proof.Machine
end

