-- ==== Sys2Proof/Laws/Queue.lean ====
section
/-! SUPPORT. The priority queue and the merge (spec/42_tree_builder.md R110 to R113): insertion and extraction keep the set's one form,
extraction takes the least key, and what a merge does. -/

namespace Sys2Proof.Machine

/-! ## Insertion -/

@[simp] theorem mem_insertIdx {i j : NodeIdx} {l : List NodeIdx} : j ∈ insertIdx i l ↔ j = i ∨ j ∈ l := by
  induction l with
  | nil => simp [insertIdx]
  | cons k t ih =>
    simp only [insertIdx]
    split
    · simp
    · split
      · subst_vars; simp
      · simp only [List.mem_cons, ih]; tauto

/-- Insertion keeps a queue ascending and without repeats. -/
theorem pairwise_insertIdx {i : NodeIdx} {l : List NodeIdx} (h : l.Pairwise (· < ·)) :
    (insertIdx i l).Pairwise (· < ·) := by
  induction l with
  | nil => simp [insertIdx]
  | cons k t ih =>
    rw [List.pairwise_cons] at h
    simp only [insertIdx]
    split
    · rename_i hik
      refine List.pairwise_cons.mpr ⟨fun j hj => ?_, List.pairwise_cons.mpr h⟩
      rcases List.mem_cons.mp hj with rfl | hj
      · exact hik
      · have := h.1 j hj; bv_omega
    · split
      · exact List.pairwise_cons.mpr h
      · rename_i h1 h2
        refine List.pairwise_cons.mpr ⟨fun j hj => ?_, ih h.2⟩
        rcases mem_insertIdx.mp hj with rfl | hj
        · bv_omega
        · exact h.1 j hj

/-- An index above all others goes to the end. -/
theorem insertIdx_of_all_lt {i : NodeIdx} {l : List NodeIdx} (h : ∀ j ∈ l, j < i) : insertIdx i l = l ++ [i] := by
  induction l with
  | nil => rfl
  | cons k t ih =>
    have hk := h k (by simp)
    have h1 : ¬ i < k := by bv_omega
    have h2 : ¬ i = k := by rintro rfl; bv_omega
    simp only [insertIdx, h1, h2, if_false, List.cons_append, List.cons.injEq, true_and]
    exact ih fun j hj => h j (List.mem_cons_of_mem _ hj)

/-! ## Extraction -/

theorem keyLess_iff (s : State) (i j : NodeIdx) : s.keyLess i j = true ↔ KeyLt s i j := by
  simp only [State.keyLess, KeyLt, decide_eq_true_eq, BitVec.lt_def, BitVec.toNat_inj]

/-- The order on keys is total on distinct indices (R110). -/
theorem keyLt_total (s : State) {i j : NodeIdx} (h : i ≠ j) : KeyLt s i j ∨ KeyLt s j i := by
  have : i.toNat ≠ j.toNat := fun e => h (BitVec.eq_of_toNat_eq e)
  unfold KeyLt
  omega

theorem KeyLt.trans {s : State} {i j k : NodeIdx} (h : KeyLt s i j) (h' : KeyLt s j k) : KeyLt s i k := by
  unfold KeyLt at *
  omega

theorem KeyLt.irrefl {s : State} {i : NodeIdx} : ¬ KeyLt s i i := by
  unfold KeyLt
  omega

/-- A non-empty list has an index of least key, and `leastKey` gives it. -/
theorem leastKey_spec (s : State) (i : NodeIdx) (t : List NodeIdx) :
    ∃ m, s.leastKey (i :: t) = some m ∧ m ∈ i :: t ∧ ∀ j ∈ i :: t, j ≠ m → KeyLt s m j := by
  induction t generalizing i with
  | nil => exact ⟨i, rfl, by simp, by simp⟩
  | cons k t ih =>
    obtain ⟨m, hm, hmem, hle⟩ := ih k
    rw [State.leastKey, hm]
    by_cases h : s.keyLess m i = true
    · refine ⟨m, by simp [h], List.mem_cons_of_mem _ hmem, fun j hj hne => ?_⟩
      rcases List.mem_cons.mp hj with rfl | hj
      · exact (keyLess_iff ..).mp h
      · exact hle j hj hne
    · have h' : ¬ KeyLt s m i := fun hk => h ((keyLess_iff ..).mpr hk)
      refine ⟨i, by simp [h], by simp, fun j hj hne => ?_⟩
      rcases List.mem_cons.mp hj with rfl | hj
      · exact absurd rfl hne
      · by_cases hjm : j = m
        · subst hjm
          exact (keyLt_total s hne).resolve_left h'
        · by_cases him : i = m
          · subst him; exact hle j hj hjm
          · exact ((keyLt_total s him).resolve_right h').trans (hle j hj hjm)

/-- The queue is empty exactly when there is nothing to extract. -/
theorem pqExtractMin_none {s : State} : pqExtractMin s = none ↔ s.pq = [] := by
  cases h : s.pq with
  | nil => simp [pqExtractMin, h, State.leastKey]
  | cons i t =>
    obtain ⟨m, hm, -⟩ := leastKey_spec s i t
    simp [pqExtractMin, h, hm]

/-- Extraction takes out an index that was queued, and changes nothing else. -/
theorem pqExtractMin_some {s t : State} {i : NodeIdx} (h : pqExtractMin s = some (i, t)) :
    i ∈ s.pq ∧ t = { s with pq := s.pq.erase i } := by
  cases hq : s.pq with
  | nil => simp [pqExtractMin, hq, State.leastKey] at h
  | cons j l =>
    obtain ⟨m, hm, hmem, -⟩ := leastKey_spec s j l
    simp only [pqExtractMin, hq, hm, Option.map_some, Option.some.injEq, Prod.mk.injEq] at h
    obtain ⟨rfl, rfl⟩ := h
    exact ⟨hmem, rfl⟩

/-! ## Merge -/

/-- Everything a merge can do to the queue: it keeps its form. -/
theorem merge_pairwise {s : State} (h : s.pq.Pairwise (· < ·)) : (merge s).pq.Pairwise (· < ·) := by
  unfold merge
  split
  · exact h
  · rename_i a t ha
    obtain ⟨-, rfl⟩ := pqExtractMin_some ha
    have h1 := h.erase a
    split
    · exact h1
    · rename_i b u hb
      obtain ⟨-, rfl⟩ := pqExtractMin_some hb
      exact pairwise_insertIdx (h1.erase b)

/-- Everything a merge can do: the node pool, NODE_COUNT and the queue change, nothing else. -/
theorem merge_frame (s : State) : ∃ n c q,
    merge s = { s with node := n, nodeCount := c, pq := q } := by
  unfold merge
  split
  · exact ⟨_, _, _, rfl⟩
  · rename_i a t ha
    obtain ⟨-, rfl⟩ := pqExtractMin_some ha
    split
    · exact ⟨_, _, _, rfl⟩
    · rename_i b u hb
      obtain ⟨-, rfl⟩ := pqExtractMin_some hb
      exact ⟨_, _, _, rfl⟩

end Sys2Proof.Machine
end

