-- ==== Sys2Proof/Laws/Run.lean ====
section
/-! SUPPORT. How a command runs: unfolding `run`, and what no piece of work changes (`EngineKeeps`). -/

namespace Sys2Proof.Machine

/-! ## `run` -/

theorem run_of_idle (k : Nat) {s : State} (h : s.phase = .idle) : run k s = s := by
  cases k with
  | zero => rfl
  | succ k => simp [run, State.busy, h]

theorem run_of_waiting (k : Nat) {s : State} (h : s.waiting = true) : run k s = s := by
  cases k with
  | zero => rfl
  | succ k => simp [run, h]

/-- One piece of work, where the engine moves. -/
theorem run_succ (k : Nat) {s : State} (hb : s.phase ≠ .idle) (hw : s.waiting = false) (hs : s.sched = []) :
    run (k + 1) s = run k (tick s) := by
  simp [run, State.busy, hb, hw, nextTurn, hs]

/-- A run can be cut in two. -/
theorem run_add (a b : Nat) (s : State) : run (a + b) s = run b (run a s) := by
  induction a generalizing s with
  | zero => simp [run]
  | succ a ih =>
    rw [Nat.succ_add, run, run]
    by_cases hstop : (!s.busy || s.waiting) = true
    · rw [if_pos hstop, if_pos hstop]
      cases b with
      | zero => rfl
      | succ b => rw [run, if_pos hstop]
    · rw [if_neg hstop, if_neg hstop]
      rcases h : nextTurn s with ⟨_ | _, t⟩
      · exact ih _
      · cases b with
        | zero => rfl
        | succ b => simp only [run, if_neg hstop, h]

/-- A command accepted while IDLE. -/
theorem runCommand_of_idle {s : State} (i : Instr) (h : s.phase = .idle) :
    runCommand i s = run s.workBound (accept (commandWord i) (.start i) s) := by
  simp [runCommand, State.busy, h]

/-! ## What no piece of work changes -/

/-- `t` differs from `s` in nothing that only the host, the platform or the environment writes. -/
structure EngineKeeps (s t : State) : Prop where
  intEn     : t.intEn = s.intEn
  tblAddr   : t.tblAddr = s.tblAddr
  params    : t.params = s.params
  drop      : t.drop = s.drop
  host      : t.host = s.host
  reads     : t.reads = s.reads
  resetLine : t.resetLine = s.resetLine
  sched     : t.sched = s.sched
  srcData   : t.src.data = s.src.data
  bsrcBits  : t.bsrc.bits = s.bsrc.bits

namespace EngineKeeps

theorem refl (s : State) : EngineKeeps s s := ⟨rfl, rfl, rfl, rfl, rfl, rfl, rfl, rfl, rfl, rfl⟩

theorem trans {s t u : State} (h : EngineKeeps s t) (g : EngineKeeps t u) : EngineKeeps s u where
  intEn := g.intEn.trans h.intEn
  tblAddr := g.tblAddr.trans h.tblAddr
  params := g.params.trans h.params
  drop := g.drop.trans h.drop
  host := g.host.trans h.host
  reads := g.reads.trans h.reads
  resetLine := g.resetLine.trans h.resetLine
  sched := g.sched.trans h.sched
  srcData := g.srcData.trans h.srcData
  bsrcBits := g.bsrcBits.trans h.bsrcBits

theorem phaseDone {s t : State} (h : EngineKeeps s t) : EngineKeeps s (phaseDone t) := by
  obtain ⟨_, _, _, _, e⟩ := phaseDone_frame t
  rw [e]
  exact ⟨h.1, h.2, h.3, h.4, h.5, h.6, h.7, h.8, h.9, h.10⟩

theorem raise {s t : State} (e : ErrCode) (q : PortId) (h : EngineKeeps s t) : EngineKeeps s (raise e q t) := by
  obtain ⟨_, _, _, e⟩ := raise_frame e q t
  rw [e]
  exact ⟨h.1, h.2, h.3, h.4, h.5, h.6, h.7, h.8, h.9, h.10⟩

theorem setNode {s t : State} (i : NodeIdx) (n : Node) (h : EngineKeeps s t) : EngineKeeps s (t.setNode i n) :=
  ⟨h.1, h.2, h.3, h.4, h.5, h.6, h.7, h.8, h.9, h.10⟩

/-- The state a port procedure leaves, whether the command goes on or stops. -/
def ported {α : Type} : Ported α → State
  | .go _ t => t
  | .stop t => t

theorem put (c : Bits) (s : State) : EngineKeeps s (ported (put c s)) := by
  cases h : nextReply s.bsnk.replies with
  | answer => rw [put_ok c h]; exact ⟨rfl, rfl, rfl, rfl, rfl, rfl, rfl, rfl, rfl, rfl⟩
  | ioerr =>
    obtain ⟨k, h⟩ := put_ioerr c h
    rw [h]
    exact raise _ _ ⟨rfl, rfl, rfl, rfl, rfl, rfl, rfl, rfl, rfl, rfl⟩
  | silent => rw [put_silent c h]; exact refl s

theorem emit (c : Bits) (s : State) : EngineKeeps s (ported (emit c s)) := by
  cases h : nextReply s.bsnk.replies with
  | answer => rw [emit_ok c h]; exact ⟨rfl, rfl, rfl, rfl, rfl, rfl, rfl, rfl, rfl, rfl⟩
  | ioerr =>
    obtain ⟨k, n, h⟩ := emit_ioerr c h
    rw [h]
    exact raise _ _ ⟨rfl, rfl, rfl, rfl, rfl, rfl, rfl, rfl, rfl, rfl⟩
  | silent => rw [emit_silent c h]; exact refl s

theorem get (n : Nat) (e : ErrCode) (s : State) : EngineKeeps s (ported (get n e s)) := by
  obtain ⟨r, pos, rs, d, h⟩ := bitRead_frame n s
  unfold Sys2Proof.Machine.get
  rw [h]
  cases r with
  | data v => exact ⟨rfl, rfl, rfl, rfl, rfl, rfl, rfl, rfl, rfl, rfl⟩
  | eos => exact raise _ _ ⟨rfl, rfl, rfl, rfl, rfl, rfl, rfl, rfl, rfl, rfl⟩
  | ioerr => exact raise _ _ ⟨rfl, rfl, rfl, rfl, rfl, rfl, rfl, rfl, rfl, rfl⟩
  | silent => exact ⟨rfl, rfl, rfl, rfl, rfl, rfl, rfl, rfl, rfl, rfl⟩

/-! ### The bodies -/

theorem countTick (s : State) : EngineKeeps s (countTick s) := by
  obtain ⟨r, pos, rs, d, h⟩ := srcRead_frame s
  unfold Sys2Proof.Machine.countTick
  rw [h]
  cases r with
  | data b =>
    simp only [countByte]
    split
    · exact raise _ _ ⟨rfl, rfl, rfl, rfl, rfl, rfl, rfl, rfl, rfl, rfl⟩
    · exact ⟨rfl, rfl, rfl, rfl, rfl, rfl, rfl, rfl, rfl, rfl⟩
  | eos => exact phaseDone ⟨rfl, rfl, rfl, rfl, rfl, rfl, rfl, rfl, rfl, rfl⟩
  | ioerr => exact raise _ _ ⟨rfl, rfl, rfl, rfl, rfl, rfl, rfl, rfl, rfl, rfl⟩
  | silent => exact ⟨rfl, rfl, rfl, rfl, rfl, rfl, rfl, rfl, rfl, rfl⟩

theorem byteLeaf (s : State) (b : Word × Nat) : EngineKeeps s (byteLeaf s b) := by
  simp only [Machine.byteLeaf]
  split
  · exact refl s
  · exact ⟨rfl, rfl, rfl, rfl, rfl, rfl, rfl, rfl, rfl, rfl⟩

theorem byteLeaves (s : State) : EngineKeeps s (byteLeaves s) := by
  have gen : ∀ (l : List (Word × Nat)) (t : State), EngineKeeps s t → EngineKeeps s (l.foldl Machine.byteLeaf t) := by
    intro l
    induction l with
    | nil => exact fun t h => h
    | cons b l ih => exact fun t h => ih _ (h.trans (byteLeaf t b))
  unfold Machine.byteLeaves
  exact gen _ s (refl s)

theorem placeholderLeaf (s : State) : EngineKeeps s (placeholderLeaf s) := by
  unfold Machine.placeholderLeaf
  split
  · exact ⟨rfl, rfl, rfl, rfl, rfl, rfl, rfl, rfl, rfl, rfl⟩
  · exact refl s

theorem newLeaf {s t : State} (v : BitVec 10) (w : Weight) (h : EngineKeeps s t) :
    EngineKeeps s (newLeaf v w t) :=
  ⟨h.1, h.2, h.3, h.4, h.5, h.6, h.7, h.8, h.9, h.10⟩

theorem queued {s t : State} (h : EngineKeeps s t) :
    EngineKeeps s { t with leafCount := t.nodeCount.setWidth 9, pqActive := true } :=
  ⟨h.1, h.2, h.3, h.4, h.5, h.6, h.7, h.8, h.9, h.10⟩

theorem buildInitBody (s : State) : EngineKeeps s (buildInitBody s) := by
  have h : EngineKeeps s { s with
      pqActive := false, treeValid := false, treeSrc := false, codesValid := false
      pq := [], nodeCount := 0, root := Config.nil } := ⟨rfl, rfl, rfl, rfl, rfl, rfl, rfl, rfl, rfl, rfl⟩
  exact queued (newLeaf _ _ ((h.trans (byteLeaves _)).trans (placeholderLeaf _)))

theorem buildMergeBody (s : State) : EngineKeeps s (buildMergeBody s) := by
  obtain ⟨n, c, q, h⟩ := merge_frame s
  unfold Machine.buildMergeBody latchRoot
  rw [h]
  split
  · split
    · exact ⟨rfl, rfl, rfl, rfl, rfl, rfl, rfl, rfl, rfl, rfl⟩
    · rename_i r t ht
      obtain ⟨-, rfl⟩ := pqExtractMin_some ht
      exact ⟨rfl, rfl, rfl, rfl, rfl, rfl, rfl, rfl, rfl, rfl⟩
  · exact ⟨rfl, rfl, rfl, rfl, rfl, rfl, rfl, rfl, rfl, rfl⟩

theorem buildLoop (k : Nat) (s : State) : EngineKeeps s (buildLoop k s) := by
  induction k generalizing s with
  | zero => exact refl s
  | succ k ih =>
    unfold Machine.buildLoop
    split
    · exact (buildMergeBody s).trans (ih _)
    · exact refl s

theorem closeSubtree {s : State} (r : NodeIdx) (st : List Frame) (t : State) (h : EngineKeeps s t) :
    EngineKeeps s (closeSubtree r st t) := by
  induction st generalizing r t with
  | nil => exact phaseDone ⟨h.1, h.2, h.3, h.4, h.5, h.6, h.7, h.8, h.9, h.10⟩
  | cons f st ih =>
    obtain ⟨i, _ | l⟩ := f
    · exact ⟨h.1, h.2, h.3, h.4, h.5, h.6, h.7, h.8, h.9, h.10⟩
    · exact ih _ _ (setNode _ _ h)

theorem getFlag (s : State) : EngineKeeps s (ported (getFlag s)) := by
  have h := get 1 .truncatedHeader s
  unfold Machine.getFlag
  split
  · rename_i v t e
    rw [e] at h
    dsimp only
    split
    · exact raise _ _ ⟨h.1, h.2, h.3, h.4, h.5, h.6, h.7, h.8, h.9, h.10⟩
    · exact ⟨h.1, h.2, h.3, h.4, h.5, h.6, h.7, h.8, h.9, h.10⟩
  · rename_i t e
    rw [e] at h
    exact h

theorem internalToken (st : List Frame) (s : State) : EngineKeeps s (internalToken st s) := by
  have h := getFlag s
  unfold Machine.internalToken
  split
  · rename_i t e
    rw [e] at h
    exact ⟨h.1, h.2, h.3, h.4, h.5, h.6, h.7, h.8, h.9, h.10⟩
  · rename_i t e
    rw [e] at h
    exact h

theorem leafValue (v : Nat) (i : NodeIdx) (st : List Frame) (s : State) : EngineKeeps s (leafValue v i st s) := by
  have h := get 9 .truncatedHeader s
  unfold Machine.leafValue
  split
  · rename_i t e
    rw [e] at h
    exact closeSubtree _ _ _ ⟨h.1, h.2, h.3, h.4, h.5, h.6, h.7, h.8, h.9, h.10⟩
  · rename_i t e
    rw [e] at h
    exact h

theorem leafToken (v : Nat) (st : List Frame) (s : State) : EngineKeeps s (leafToken v st s) := by
  have h := getFlag s
  unfold Machine.leafToken
  split
  · rename_i t e
    rw [e] at h
    have g := leafValue v t.nodeCount st
      { t with nodeCount := t.nodeCount + 1, work := .getValue t.nodeCount st }
    exact ⟨g.1.trans h.1, g.2.trans h.2, g.3.trans h.3, g.4.trans h.4, g.5.trans h.5, g.6.trans h.6,
      g.7.trans h.7, g.8.trans h.8, g.9.trans h.9, g.10.trans h.10⟩
  · rename_i t e
    rw [e] at h
    exact h

theorem getMagicTick (s : State) : EngineKeeps s (getMagicTick s) := by
  have h := get 32 .formatMismatch s
  unfold Machine.getMagicTick
  split
  · rename_i m t e
    rw [e] at h
    split
    · exact ⟨h.1, h.2, h.3, h.4, h.5, h.6, h.7, h.8, h.9, h.10⟩
    · exact raise _ _ h
  · rename_i t e
    rw [e] at h
    exact h

theorem putMagicTick (s : State) : EngineKeeps s (putMagicTick s) := by
  have h := put (bitsN 32 Config.magicTree.toNat) s
  unfold Machine.putMagicTick
  split
  · rename_i t e
    rw [e] at h
    exact ⟨h.1, h.2, h.3, h.4, h.5, h.6, h.7, h.8, h.9, h.10⟩
  · rename_i t e
    rw [e] at h
    exact h

theorem serNext {s : State} (st : List NodeIdx) (t : State) (h : EngineKeeps s t) : EngineKeeps s (serNext st t) := by
  cases st with
  | nil => exact phaseDone h
  | cons i st => exact ⟨h.1, h.2, h.3, h.4, h.5, h.6, h.7, h.8, h.9, h.10⟩

theorem putFlagTick (st : List NodeIdx) (s : State) : EngineKeeps s (putFlagTick st s) := by
  cases st with
  | nil => exact phaseDone (refl s)
  | cons i st =>
    have h := put [(s.nodeAt i).isLeaf] s
    unfold Machine.putFlagTick
    dsimp only
    split
    · rename_i t e
      rw [e] at h
      split
      · exact ⟨h.1, h.2, h.3, h.4, h.5, h.6, h.7, h.8, h.9, h.10⟩
      · exact serNext _ _ ⟨h.1, h.2, h.3, h.4, h.5, h.6, h.7, h.8, h.9, h.10⟩
    · rename_i t e
      rw [e] at h
      exact h

theorem putValueTick (st : List NodeIdx) (s : State) : EngineKeeps s (putValueTick st s) := by
  cases st with
  | nil => exact phaseDone (refl s)
  | cons i st =>
    have h := put (bitsN 9 (s.nodeAt i).value.toNat) s
    unfold Machine.putValueTick
    dsimp only
    split
    · rename_i t e
      rw [e] at h
      exact serNext _ _ ⟨h.1, h.2, h.3, h.4, h.5, h.6, h.7, h.8, h.9, h.10⟩
    · rename_i t e
      rw [e] at h
      exact h

theorem rewindTick (s : State) : EngineKeeps s (rewindTick s) := by
  obtain ⟨r, pos, rs, d, h⟩ := srcRewind_frame s
  unfold Machine.rewindTick
  rw [h]
  cases r with
  | ok => exact ⟨rfl, rfl, rfl, rfl, rfl, rfl, rfl, rfl, rfl, rfl⟩
  | ioerr => exact raise _ _ ⟨rfl, rfl, rfl, rfl, rfl, rfl, rfl, rfl, rfl, rfl⟩
  | silent => exact ⟨rfl, rfl, rfl, rfl, rfl, rfl, rfl, rfl, rfl, rfl⟩

theorem emitCode {s t : State} (c : Bits) (last : Bool) (h : EngineKeeps s t) :
    EngineKeeps s (emitCode c last t) := by
  unfold Machine.emitCode
  split
  · exact raise _ _ h
  · exact ⟨h.1, h.2, h.3, h.4, h.5, h.6, h.7, h.8, h.9, h.10⟩

theorem encodeReadTick (s : State) : EngineKeeps s (encodeReadTick s) := by
  obtain ⟨r, pos, rs, d, h⟩ := srcRead_frame s
  unfold Machine.encodeReadTick
  rw [h]
  cases r with
  | data b => exact emitCode _ _ ⟨rfl, rfl, rfl, rfl, rfl, rfl, rfl, rfl, rfl, rfl⟩
  | eos => exact emitCode _ _ ⟨rfl, rfl, rfl, rfl, rfl, rfl, rfl, rfl, rfl, rfl⟩
  | ioerr => exact raise _ _ ⟨rfl, rfl, rfl, rfl, rfl, rfl, rfl, rfl, rfl, rfl⟩
  | silent => exact ⟨rfl, rfl, rfl, rfl, rfl, rfl, rfl, rfl, rfl, rfl⟩

theorem emitTick (c : Bits) (last : Bool) (s : State) : EngineKeeps s (emitTick c last s) := by
  have h := emit c s
  unfold Machine.emitTick
  split
  · rename_i t e
    rw [e] at h
    split
    · exact phaseDone h
    · exact ⟨h.1, h.2, h.3, h.4, h.5, h.6, h.7, h.8, h.9, h.10⟩
  · rename_i t e
    rw [e] at h
    exact h

theorem arrive {s t : State} (p : NodeIdx) (h : EngineKeeps s t) : EngineKeeps s (arrive p t) := by
  unfold Machine.arrive
  dsimp only
  split
  · exact ⟨h.1, h.2, h.3, h.4, h.5, h.6, h.7, h.8, h.9, h.10⟩
  · split
    · exact phaseDone ⟨h.1, h.2, h.3, h.4, h.5, h.6, h.7, h.8, h.9, h.10⟩
    · exact ⟨h.1, h.2, h.3, h.4, h.5, h.6, h.7, h.8, h.9, h.10⟩

theorem decodeBitTick (p : NodeIdx) (s : State) : EngineKeeps s (decodeBitTick p s) := by
  have h := get 1 .truncatedBody s
  unfold Machine.decodeBitTick
  split
  · rename_i r t e
    rw [e] at h
    exact arrive _ h
  · rename_i t e
    rw [e] at h
    exact h

theorem decodeByteTick (v : Byte) (s : State) : EngineKeeps s (decodeByteTick v s) := by
  obtain ⟨r, k, rs, d, h⟩ := byteWrite_frame v s
  unfold Machine.decodeByteTick
  rw [h]
  cases r with
  | ok => exact ⟨rfl, rfl, rfl, rfl, rfl, rfl, rfl, rfl, rfl, rfl⟩
  | ioerr => exact raise _ _ ⟨rfl, rfl, rfl, rfl, rfl, rfl, rfl, rfl, rfl, rfl⟩
  | silent => exact ⟨rfl, rfl, rfl, rfl, rfl, rfl, rfl, rfl, rfl, rfl⟩

theorem startBody (i : Instr) (s : State) : EngineKeeps s (startBody i s) := by
  cases i with
  | nop => exact phaseDone (refl s)
  | clear => exact phaseDone ⟨rfl, rfl, rfl, rfl, rfl, rfl, rfl, rfl, rfl, rfl⟩
  | count => exact ⟨rfl, rfl, rfl, rfl, rfl, rfl, rfl, rfl, rfl, rfl⟩
  | buildInit =>
    show EngineKeeps s (if _ then _ else _)
    split
    · exact phaseDone (buildInitBody s)
    · exact raise _ _ (refl s)
  | buildMerge =>
    show EngineKeeps s (if _ then _ else _)
    split
    · exact phaseDone (buildMergeBody s)
    · exact raise _ _ (refl s)
  | build =>
    show EngineKeeps s (if _ then _ else _)
    split
    · exact phaseDone ((buildInitBody s).trans (buildLoop ..))
    · exact raise _ _ (refl s)
  | gencodes =>
    show EngineKeeps s (if _ then _ else _)
    split
    · exact raise _ _ (refl s)
    · split
      · exact raise _ _ (refl s)
      · exact phaseDone ⟨rfl, rfl, rfl, rfl, rfl, rfl, rfl, rfl, rfl, rfl⟩
  | wrhdr =>
    show EngineKeeps s (if _ then _ else _)
    split
    · exact ⟨rfl, rfl, rfl, rfl, rfl, rfl, rfl, rfl, rfl, rfl⟩
    · exact raise _ _ (refl s)
  | encode =>
    show EngineKeeps s (if _ then _ else _)
    split
    · exact ⟨rfl, rfl, rfl, rfl, rfl, rfl, rfl, rfl, rfl, rfl⟩
    · exact raise _ _ (refl s)
  | compress => exact ⟨rfl, rfl, rfl, rfl, rfl, rfl, rfl, rfl, rfl, rfl⟩
  | rdhdr => exact ⟨rfl, rfl, rfl, rfl, rfl, rfl, rfl, rfl, rfl, rfl⟩
  | decode =>
    show EngineKeeps s (if _ then _ else _)
    split
    · exact raise _ _ (refl s)
    · split
      · exact raise _ _ (refl s)
      · exact ⟨rfl, rfl, rfl, rfl, rfl, rfl, rfl, rfl, rfl, rfl⟩
  | decompress => exact ⟨rfl, rfl, rfl, rfl, rfl, rfl, rfl, rfl, rfl, rfl⟩
  | magic => exact refl s
  | internal => exact refl s
  | leaf v => exact refl s

end EngineKeeps

/-- No piece of a command's work changes what only the host, the platform or the environment writes. -/
theorem tick_keeps (s : State) : EngineKeeps s (tick s) := by
  unfold tick
  split
  · exact .refl s
  · exact .startBody ..
  · exact .countTick s
  · exact .putMagicTick s
  · exact .putFlagTick ..
  · exact .putValueTick ..
  · exact .getMagicTick s
  · unfold getTokenTick
    split
    · exact .leafToken ..
    · exact .internalToken ..
  · exact .leafValue ..
  · exact .rewindTick s
  · exact .encodeReadTick s
  · exact .emitTick ..
  · exact .decodeBitTick ..
  · exact .decodeByteTick ..

end Sys2Proof.Machine
end

