-- ==== Sys2Proof/Laws/Forms.lean ====
section
/-! SUPPORT. The operations that write the queue and the code table keep their forms: the queue ascending without repeats (R41), every code at
most `CODE_MAX` bits (R42). -/

namespace Sys2Proof.Machine

/-! ## The queue -/

theorem newLeaf_pairwise {s : State} (v : BitVec 10) (w : Weight) (h : s.pq.Pairwise (· < ·)) :
    (newLeaf v w s).pq.Pairwise (· < ·) :=
  pairwise_insertIdx h

theorem byteLeaf_pairwise {s : State} (b : Word × Nat) (h : s.pq.Pairwise (· < ·)) :
    (byteLeaf s b).pq.Pairwise (· < ·) := by
  simp only [byteLeaf]
  split
  · exact h
  · exact newLeaf_pairwise _ _ h

theorem byteLeaves_pairwise {s : State} (h : s.pq.Pairwise (· < ·)) : (byteLeaves s).pq.Pairwise (· < ·) := by
  have gen : ∀ (l : List (Word × Nat)) (t : State), t.pq.Pairwise (· < ·) → (l.foldl byteLeaf t).pq.Pairwise (· < ·) := by
    intro l
    induction l with
    | nil => exact fun t h => h
    | cons b l ih => exact fun t h => ih _ (byteLeaf_pairwise b h)
  unfold byteLeaves
  exact gen _ s h

theorem placeholderLeaf_pairwise {s : State} (h : s.pq.Pairwise (· < ·)) :
    (placeholderLeaf s).pq.Pairwise (· < ·) := by
  unfold placeholderLeaf
  split
  · exact newLeaf_pairwise _ _ h
  · exact h

/-- BUILD_INIT's queue is in form whatever the queue was before. -/
theorem buildInitBody_pairwise (s : State) : (buildInitBody s).pq.Pairwise (· < ·) := by
  unfold buildInitBody
  dsimp only
  exact newLeaf_pairwise _ _ (placeholderLeaf_pairwise (byteLeaves_pairwise List.Pairwise.nil))

theorem buildMergeBody_pairwise {s : State} (h : s.pq.Pairwise (· < ·)) :
    (buildMergeBody s).pq.Pairwise (· < ·) := by
  have hm := merge_pairwise h
  unfold buildMergeBody latchRoot
  split
  · split
    · exact hm
    · rename_i r t ht
      obtain ⟨-, rfl⟩ := pqExtractMin_some ht
      exact hm.erase r
  · exact hm

theorem buildLoop_pairwise (k : Nat) {s : State} (h : s.pq.Pairwise (· < ·)) :
    (buildLoop k s).pq.Pairwise (· < ·) := by
  induction k generalizing s with
  | zero => exact h
  | succ k ih =>
    unfold buildLoop
    split
    · exact ih (buildMergeBody_pairwise h)
    · exact h

theorem buildBody_pairwise (s : State) : (buildBody s).pq.Pairwise (· < ·) :=
  buildLoop_pairwise _ (buildInitBody_pairwise s)

/-! ## The code table -/

theorem mem_setCode {v : BitVec 10} {p c : Bits} {ct : Vector Bits 257} (h : c ∈ (setCode v p ct).toList) :
    c = p ∨ c ∈ ct.toList := by
  rw [setCode, Vector.toList_setIfInBounds] at h
  exact (List.mem_or_eq_of_mem_set h).symm

/-- The walk records no path longer than the bound on its depth. -/
theorem walk_bounded (node : NodeIdx → Node) (k : Nat) (i : NodeIdx) (p : Bits) (ct : Vector Bits 257)
    (hk : p.length + k ≤ Config.codeMax + 1) (h : ∀ c ∈ ct.toList, c.length ≤ Config.codeMax) :
    ∀ c ∈ (walk node k i p ct).toList, c.length ≤ Config.codeMax := by
  induction k generalizing i p ct with
  | zero => exact h
  | succ k ih =>
    unfold walk
    dsimp only
    split
    · intro c hc
      rcases mem_setCode hc with rfl | hc
      · omega
      · exact h c hc
    · refine ih _ _ _ (by simp; omega) (ih _ _ _ (by simp; omega) h)

/-- Every code GENCODES makes is at most `CODE_MAX` bits long (R130, R132). -/
theorem generatedCodes_bounded (s : State) : ∀ c ∈ s.generatedCodes.toList, c.length ≤ Config.codeMax := by
  refine walk_bounded _ _ _ _ _ (by simp) fun c hc => ?_
  simp only [Vector.toList_replicate, List.mem_replicate] at hc
  simp [hc.2]

/-- So are the codes of a table with free contents. -/
theorem ctUnspecified_bounded (s : State) : CodesBounded s.ctUnspecified := by
  intro c hc
  simp only [ctUnspecified_ct, Vector.toList_map, List.mem_map] at hc
  obtain ⟨d, -, rfl⟩ := hc
  exact List.length_take_le ..

end Sys2Proof.Machine
end

