-- ==== Sys2Proof/Laws/PerInstr.lean ====
section
/-! SUPPORT. The per-instruction family `EncodedLength`: how many bits an instruction's encoding has (spec/30_encoding.md R80, R87, R89). -/

namespace Sys2Proof.Laws.EncodedLength

/-- The number of bits each slot's instructions have: 32 for a command word and the preamble, 1 for INTERNAL, 10 for LEAF. -/
def bits (i : Instr) : Nat :=
  match i with
  | .nop => 32
  | .clear => 32
  | .count => 32
  | .buildInit => 32
  | .buildMerge => 32
  | .build => 32
  | .gencodes => 32
  | .wrhdr => 32
  | .encode => 32
  | .compress => 32
  | .rdhdr => 32
  | .decode => 32
  | .decompress => 32
  | .magic => 32
  | .internal => 1
  | .leaf _ => 10

/-- The encoding of `i` has as many bits as its format. -/
def Statement (i : Instr) : Prop := (Sys2Proof.encode i).length = bits i

theorem nop : Statement .nop := by simp [Statement, Sys2Proof.encode, bits]

theorem clear : Statement .clear := by simp [Statement, Sys2Proof.encode, bits]

theorem count : Statement .count := by simp [Statement, Sys2Proof.encode, bits]

theorem buildInit : Statement .buildInit := by simp [Statement, Sys2Proof.encode, bits]

theorem buildMerge : Statement .buildMerge := by simp [Statement, Sys2Proof.encode, bits]

theorem build : Statement .build := by simp [Statement, Sys2Proof.encode, bits]

theorem gencodes : Statement .gencodes := by simp [Statement, Sys2Proof.encode, bits]

theorem wrhdr : Statement .wrhdr := by simp [Statement, Sys2Proof.encode, bits]

theorem encode : Statement .encode := by simp [Statement, Sys2Proof.encode, bits]

theorem compress : Statement .compress := by simp [Statement, Sys2Proof.encode, bits]

theorem rdhdr : Statement .rdhdr := by simp [Statement, Sys2Proof.encode, bits]

theorem decode : Statement .decode := by simp [Statement, Sys2Proof.encode, bits]

theorem decompress : Statement .decompress := by simp [Statement, Sys2Proof.encode, bits]

theorem magic : Statement .magic := by simp [Statement, Sys2Proof.encode, bits]

theorem internal : Statement .internal := by simp [Statement, Sys2Proof.encode, bits]

theorem leaf (value : Nat) : Statement (.leaf value) := by simp [Statement, Sys2Proof.encode, bits]

end Sys2Proof.Laws.EncodedLength
end

