-- ==== Sys2Proof/Laws/Trees.lean ====
section
/-! SUPPORT. The small lemmas of the tree section's transactions (R142, R145): `HTree.reads` and `bitsReceived`. -/

namespace Sys2Proof.Machine

/-- One token for each node. -/
@[simp] theorem HTree.length_reads (t : HTree) : t.reads.length = t.size := by
  induction t with
  | leaf v => rfl
  | node l r hl hr => simp [HTree.reads, HTree.size, hl, hr]

/-- All the transactions together read the whole tree section. -/
theorem HTree.sum_reads (t : HTree) : t.reads.flatten.sum = t.wire.length := by
  induction t with
  | leaf v => simp [HTree.reads, HTree.wire]
  | node l r hl hr => simp [HTree.reads, HTree.wire, ← hl, ← hr]; omega

/-- A tree of at most `n` nodes is read by its first `n` tokens. -/
theorem HTree.sum_take_reads (t : HTree) {n : Nat} (h : t.size ≤ n) : (t.reads.take n).flatten.sum = t.wire.length := by
  rw [List.take_of_length_le (by rwa [t.length_reads]), t.sum_reads]

@[simp] theorem bitsReceived_nil (n : Nat) : bitsReceived [] n = 0 := rfl

theorem bitsReceived_cons_of_le {k n : Nat} (ks : List Nat) (h : k ≤ n) :
    bitsReceived (k :: ks) n = k + bitsReceived ks (n - k) := if_pos h

theorem bitsReceived_cons_of_lt {k n : Nat} (ks : List Nat) (h : n < k) : bitsReceived (k :: ks) n = 0 :=
  if_neg (by omega)

/-- No more bits are received than there are. -/
theorem bitsReceived_le (ks : List Nat) (n : Nat) : bitsReceived ks n ≤ n := by
  induction ks generalizing n with
  | nil => exact Nat.zero_le n
  | cons k ks ih =>
    rcases Nat.lt_or_ge n k with h | h
    · rw [bitsReceived_cons_of_lt ks h]; exact Nat.zero_le n
    · rw [bitsReceived_cons_of_le ks h]
      have := ih (n - k)
      omega

/-- Where the first transactions can all be answered, the others go on with the bits that are left. -/
theorem bitsReceived_append (ks ls : List Nat) {n : Nat} (h : ks.sum ≤ n) :
    bitsReceived (ks ++ ls) n = ks.sum + bitsReceived ls (n - ks.sum) := by
  induction ks generalizing n with
  | nil => simp
  | cons k ks ih =>
    rw [List.sum_cons] at h ⊢
    rw [List.cons_append, bitsReceived_cons_of_le _ (by omega), ih (by omega), Nat.sub_sub, Nat.add_assoc]

end Sys2Proof.Machine
end

