-- ==== Sys2Proof/Tests/Slice0.lean ====
section
/-! SUPPORT. Tests of the model against the vectors of spec/95_test_vectors.md and the examples of the rules, the refusals of
WellFormed, decoding from words written out from the spec, and for every obligation with hypotheses a state that meets them. -/

namespace Sys2Proof.Tests

open Sys2Proof.Machine

-- The evaluations by `decide` below are many levels deep. `decide +kernel` would need no such limit, but each use holds a thread of its
-- own until every earlier declaration is checked, and so many threads exhaust the memory a compile may use.
set_option maxRecDepth 6000

/-! ## Helpers -/

/-- The state an outcome gives; the reset state where it gives none. -/
def after : Host.Outcome State Fault Refusal → State
  | .next s => s
  | .fault _ => State.reset
  | .refused _ => State.reset

/-- The magic number's bits, written out from R87. -/
def magicBits : Bits :=
  [true, true, true, true, true, false, true, false, true, true, false, false, true, true, true, false,
   true, false, false, false, false, false, true, false, false, false, false, false, false, false, false, true]

/-- LEAF 65 and LEAF 256, written out from R88 (vector E3). -/
def leaf65 : Bits := [true, false, false, true, false, false, false, false, false, true]

def leaf256 : Bits := [true, true, false, false, false, false, false, false, false, false]

/-- Reset, with the bytes on SRC. -/
def withSrc (l : List Byte) : State := { State.reset with src := ⟨l, 0, []⟩ }

/-- Reset, with the bits on BSRC. -/
def withBsrc (b : Bits) : State := { State.reset with bsrc := ⟨b, 0, []⟩ }

/-- Reset, with a next host event. -/
def withEvent (e : HostEvent) : State := { State.reset with host := [e] }

/-- A node pool with its first entries given. -/
def poolOf (l : List Node) : Vector Node 513 :=
  ⟨⟨(l ++ List.replicate 513 Node.blank).take 513⟩, by
    simp only [List.size_toArray, List.length_take, List.length_append, List.length_replicate]; omega⟩

/-- The tree of two leaves, sentinel left and 65 right, read from the header of R143's example. -/
def pairTree : HTree := .node (.leaf 256) (.leaf 65)

def pairState : State := { State.reset with
  treeValid := true, treeSrc := true, root := 0, nodeCount := 3, leafCount := 2
  node := poolOf [⟨false, 0x3FF, 0, 1, 2⟩, ⟨true, 256, 0, 0x3FF, 0x3FF⟩, ⟨true, 65, 0, 0x3FF, 0x3FF⟩] }

/-- The single-leaf tree of vector V-RH7. -/
def leafState : State := { State.reset with
  treeValid := true, treeSrc := true, root := 0, nodeCount := 1, leafCount := 1
  node := poolOf [⟨true, 65, 0, 0x3FF, 0x3FF⟩] }

/-- Three leaves queued, as BUILD_INIT leaves them for bytes 0 and 1 once each (vector V-TB6). -/
def buildingState : State := { State.reset with
  freqValid := true, pqActive := true, nodeCount := 3, leafCount := 3, pq := [0, 1, 2]
  node := poolOf [⟨true, 0, 1, 0x3FF, 0x3FF⟩, ⟨true, 1, 1, 0x3FF, 0x3FF⟩, ⟨true, 256, 1, 0x3FF, 0x3FF⟩] }

/-- Two leaves queued, byte 65 of count 2 and the sentinel (vector V-TB4). -/
def lastMergeState : State := { State.reset with
  freqValid := true, pqActive := true, nodeCount := 2, leafCount := 2, pq := [0, 1]
  node := poolOf [⟨true, 65, 2, 0x3FF, 0x3FF⟩, ⟨true, 256, 1, 0x3FF, 0x3FF⟩] }

/-- A counted table: 3 of 0x61, 1 of 0x62 and 1 of 0x63 (vector V-CT1). -/
def countedState : State := { State.reset with
  freqValid := true
  freq := (((Vector.replicate 256 0).set 0x61 3).set 0x62 1).set 0x63 1 }

/-- The codes of input "ab": 256 is `0`, 0x61 is `10`, 0x62 is `11` (vector V-EN5). -/
def codedState : State := { State.reset with
  codesValid := true
  ct := (((Vector.replicate 257 []).set 256 [false]).set 0x61 [true, false]).set 0x62 [true, true] }

/-- DECODE at the root of `pairTree`, four bits to come. -/
def walkingState : State := { pairState with
  phase := .busy 0x0B, work := .decodeBit 0, lastOpc := 0x0B, bsrc := ⟨[true, true, false, true], 0, []⟩ }

/-- RDHDR inside the header of `pairTree`: the root and its left leaf are read. -/
def parsingState : State := { State.reset with
  phase := .busy 0x0A, work := .getToken [⟨0, some 1⟩], lastOpc := 0x0A, nodeCount := 2, leafCount := 1
  node := poolOf [⟨false, 0x3FF, 0, 0x3FF, 0x3FF⟩, ⟨true, 256, 0, 0x3FF, 0x3FF⟩]
  bsrc := ⟨leaf65, 0, []⟩ }

/-! ## WellFormed refuses -/

theorem test_wellFormed_refuses_ten_bit_leaf : (Instr.leaf 512).wellFormed = false := by decide

theorem test_wellFormed_takes_nine_bit_leaf : (Instr.leaf 511).wellFormed = true := by decide

/-! ## Decoding, from the words of R81 and the tokens of R87 and R88 -/

theorem test_decode_nop : decodeCommand 0x00000000 = .ok .nop := by decide
theorem test_decode_clear : decodeCommand 0x00000001 = .ok .clear := by decide
theorem test_decode_count : decodeCommand 0x00000002 = .ok .count := by decide
theorem test_decode_buildInit : decodeCommand 0x00000003 = .ok .buildInit := by decide
theorem test_decode_buildMerge : decodeCommand 0x00000004 = .ok .buildMerge := by decide
theorem test_decode_build : decodeCommand 0x00000005 = .ok .build := by decide
theorem test_decode_gencodes : decodeCommand 0x00000006 = .ok .gencodes := by decide
theorem test_decode_wrhdr : decodeCommand 0x00000007 = .ok .wrhdr := by decide
theorem test_decode_encode : decodeCommand 0x00000008 = .ok .encode := by decide
theorem test_decode_compress : decodeCommand 0x00000009 = .ok .compress := by decide
theorem test_decode_rdhdr : decodeCommand 0x0000000A = .ok .rdhdr := by decide
theorem test_decode_decode : decodeCommand 0x0000000B = .ok .decode := by decide
theorem test_decode_decompress : decodeCommand 0x0000000C = .ok .decompress := by decide
theorem test_decode_magic : decodeAt .preamble magicBits = .ok (.magic, []) := by decide
theorem test_decode_internal : decodeAt .tree [false] = .ok (.internal, []) := by decide
theorem test_decode_leaf : decodeAt .tree (leaf256 ++ [true]) = .ok (.leaf 256, [true]) := by decide

theorem test_decode_refuses_reserved_opcode : decodeCommand 0x0000000D = .error .reservedOpcode := by decide
theorem test_decode_refuses_count_header : decodeCommand 0x00000107 = .error .reservedHeaderMode := by decide
theorem test_decode_refuses_reserved_bits : decodeCommand 0x00000402 = .error .reservedBits := by decide
theorem test_decode_refuses_magic_count : decodeAt .preamble (bitsN 32 0xFACE8202) = .error .notMagic := by decide
theorem test_decode_refuses_short_leaf : decodeAt .tree (leaf65.take 9) = .error .tooShort := by decide

theorem test_table_word_leaf : decodeTableWord 10 0x2FF = some (.leaf 255) := by decide
theorem test_table_word_magic : decodeTableWord 32 0xFACE8201 = some .magic := by decide

/-! ## Instructions -/

/-- V-CC10. -/
theorem test_nop_status : (after (exec .nop State.reset)).status = 0x00000002 := by decide

/-- V-CC9. -/
theorem test_clear_tree : (after (exec .clear pairState)).treeWord = 0x000003FF := by decide

theorem test_clear_status : (after (exec .clear pairState)).status = 0x00010002 := by decide

/-- V-CT1. -/
theorem test_count_frequency :
    (after (exec .count (withSrc [0x61, 0x62, 0x61, 0x63, 0x61]))).freqOf 0x61 = 3 := by decide

/-- V-CT3. -/
theorem test_count_overflow_status :
    (after (exec .count { withSrc [5, 5, 5, 5] with params := ⟨2⟩ })).status = 0x00020076 := by decide

/-- V-TB1. -/
theorem test_buildInit_pqInfo : (after (exec .buildInit countedState)).pqInfo = 0x00040004 := by decide

theorem test_buildInit_sequence : (after (exec .buildInit State.reset)).status = 0x00030026 := by decide

/-- V-TB6: the first merge is of nodes 0 and 1. -/
theorem test_buildMerge_children :
    ((after (exec .buildMerge buildingState)).nodeAt 3).left = 0 ∧
      ((after (exec .buildMerge buildingState)).nodeAt 3).right = 1 := by decide

/-- V-TB4: the sentinel is extracted first, ROOT is 2 and NODE_COUNT 3. -/
theorem test_buildMerge_last :
    (after (exec .buildMerge lastMergeState)).treeWord = 0x00030002 ∧
      ((after (exec .buildMerge lastMergeState)).nodeAt 2).left = 1 := by decide

/-- V-TB1. -/
theorem test_build_tree : (after (exec .build countedState)).treeWord = 0x00070006 := by decide

/-- Of the tree of R143's example the sentinel's code is `0` and 65's is `1`. -/
theorem test_gencodes_codes :
    (after (exec .gencodes pairState)).eofCode = [false] ∧ (after (exec .gencodes pairState)).codeOf 65 = [true] := by
  decide

/-- V-GC8. -/
theorem test_gencodes_degenerate : (after (exec .gencodes leafState)).status = 0x00060C96 := by decide

/-- V-WH3. -/
theorem test_wrhdr_bits :
    (after (exec .wrhdr pairState)).bsnk.bits = magicBits ++ [false] ++ leaf256 ++ leaf65 := by decide

/-- V-WH8. -/
theorem test_wrhdr_ioerr :
    (after (exec .wrhdr { pairState with bsnk := ⟨[], [.ioerr]⟩ })).errInfoWord = 0x00000702 := by decide

/-- Codes 0x61 `10`, 0x62 `11`, 256 `0` over "ab". -/
theorem test_encode_body :
    (after (exec .encode { codedState with src := ⟨[0x61, 0x62], 2, []⟩ })).bsnk.bits =
      [true, false, true, true, false] := by decide

/-- V-EN5, from reset with only the code table: bits 8 and 10 of STATUS are then 0. -/
theorem test_encode_missing_code :
    (after (exec .encode { codedState with src := ⟨[0x61, 0x62, 0x63], 0, []⟩ })).status = 0x000810A6 := by
  decide

/-- E6. -/
theorem test_compress_empty :
    (after (exec .compress State.reset)).bsnk.bits =
      magicBits ++ [false] ++ bitsN 10 0x200 ++ leaf256 ++ [true] := by decide

/-- The example of R143. -/
theorem test_rdhdr_tree :
    (after (exec .rdhdr (withBsrc (magicBits ++ [false] ++ leaf256 ++ leaf65)))).treeWord = 0x00030000 := by
  decide

/-- V-RH3. -/
theorem test_rdhdr_short : (after (exec .rdhdr (withBsrc (magicBits.take 31)))).errInfoWord = 0x00000A03 := by
  decide

/-- The end of V-RH5: TREE_CAPACITY at the 514th flag bit, with nothing behind it. -/
theorem test_rdhdr_zeros :
    let t := tick { parsingState with nodeCount := 513, hdrBits := 513, bitsIn := 545, bsrc := ⟨[false], 0, []⟩ }
    t.status = 0x000A0086 ∧ t.errInfoWord = 0x00000A00 ∧ t.bitsIn = 546 ∧ t.hdrBits = 514 := by
  decide

/-- The example of R163. -/
theorem test_decode_bytes :
    (after (exec .decode { pairState with bsrc := ⟨[true, true, true, true, false], 0, []⟩ })).bysnk.bytes =
      [65, 65, 65, 65] := by decide

/-- V-DE6. -/
theorem test_decode_degenerate : (after (exec .decode leafState)).errInfoWord = 0x00000B00 := by decide

/-- E5's header and a body of one 65. -/
theorem test_decompress_status :
    (after (exec .decompress (withBsrc (magicBits ++ [false] ++ leaf256 ++ leaf65 ++ [true, false])))).status =
      0x000C2C02 := by decide

/-- V-CC8. -/
theorem test_decompress_degenerate :
    (after (exec .decompress (withBsrc (magicBits ++ leaf65)))).status = 0x000C0C96 := by decide

theorem test_magic_bitsIn :
    (after (exec .magic { withBsrc magicBits with phase := .busy 0x0A, work := .getMagic })).bitsIn = 32 := by
  decide

theorem test_internal_node :
    (after (exec .internal { withBsrc [false] with phase := .busy 0x0A, work := .getToken [] })).nodeCount = 1 := by
  decide

theorem test_leaf_closes_the_tree :
    (after (exec (.leaf 65) parsingState)).treeWord = 0x00030000 ∧
      ((after (exec (.leaf 65) parsingState)).nodeAt 0).right = 2 := by decide

/-! ## Host accesses -/

/-- V-LC1. -/
theorem test_reset_status_and_param : State.reset.status = 0 ∧ State.reset.paramWord = 0x04020120 := by decide

/-- V-LC2. -/
theorem test_illegal_command :
    (after (step (withEvent (.write 32 0x08 0x0000000D)))).status = 0x000D0016 := by decide

/-- V-LC5. -/
theorem test_acknowledge_err :
    (acknowledge 0x00000004 (after (step (withEvent (.write 32 0x08 0x0000000D))))).status = 0x000D0002 := by
  decide

/-- V-LC7. -/
theorem test_irq_on_err :
    (after (step { withEvent (.write 32 0x08 0x0000000D) with intEn := 2 })).irq = true := by decide

/-- V-LC8. -/
theorem test_command_while_busy :
    (after (step { walkingState with host := [.write 32 0x08 0x00000000], sched := [.host] })).drop = true := by
  decide

/-- V-GC1's reads of the table window: the first word of the code `11`, and a length. -/
theorem test_tblData_code :
    (readReg 0x44 { codedState with tblAddr := ⟨0x62, 1, 2⟩ }).1 = 0xC0000000 ∧
      (readReg 0x44 { codedState with tblAddr := ⟨0x62, 0, 2⟩ }).1 = 2 := by decide

/-- `ACK` writes `0x0000000E` to STATUS (R85). -/
theorem test_script_ack : Script.ack = [.write 32 0x0C 0x0000000E] := by decide

/-- `TBL CODE, 256, 0` (program P1). -/
theorem test_script_tbl : Script.tbl .code 256 0 = [.write 32 0x40 0x20000100, .read 32 0x44] := by decide

end Sys2Proof.Tests
end

