-- ==== Sys2Proof/Tests/Witnesses.lean ====
section
/-! SUPPORT. For every obligation with hypotheses, a state and operands that meet them all together, one for each clause, at a boundary
value where the clause has a range. -/

namespace Sys2Proof.Tests

open Sys2Proof.Machine

-- The evaluations by `decide` below are many levels deep. `decide +kernel` would need no such limit, but each use holds a thread of its
-- own until every earlier declaration is checked, and so many threads exhaust the memory a compile may use.
set_option maxRecDepth 6000

/-! ## Helpers -/

theorem nodeAt_poolOf (s : State) (l : List Node) (h : s.node = poolOf l) (i : NodeIdx) (n : Node)
    (hi : i.toNat < 513) (hn : l[i.toNat]? = some n) : s.nodeAt i = n := by
  obtain ⟨hl, hn⟩ := List.getElem?_eq_some_iff.mp hn
  have hp : (poolOf l)[i.toNat] = n := by
    simp only [poolOf, Vector.getElem_mk, List.getElem_toArray, List.getElem_take, List.getElem_append_left hl, hn]
  unfold State.nodeAt
  rw [dif_pos hi]
  simp only [h, hp]

/-- Every entry of the table at reset is the empty string. -/
theorem codesBounded_of_reset {s : State} (h : s.ct = State.reset.ct) : CodesBounded s := by
  intro c hc
  rw [h] at hc
  have : c ∈ (Vector.replicate 257 ([] : Bits)).toList := hc
  simp only [Vector.toList_replicate, List.mem_replicate] at this
  simp [this.2]

theorem answers_nil : Answers [] := fun _ h => absurd h List.not_mem_nil

theorem neverSilent_nil : NeverSilent [] := fun _ h => absurd h List.not_mem_nil

/-- A tree of `k + 1` leaves, each left child a leaf. -/
def comb : Nat → HTree
  | 0 => .leaf 256
  | k + 1 => .node (.leaf 65) (comb k)

theorem size_comb (k : Nat) : (comb k).size = 2 * k + 1 := by
  induction k with
  | zero => rfl
  | succ k ih => simp [comb, HTree.size, ih]; omega

theorem codes_comb_lt (k : Nat) : ∀ c ∈ (comb k).codes, c.1.toNat < 512 := by
  induction k with
  | zero => simp [comb, HTree.codes]
  | succ k ih =>
    intro c hc
    simp only [comb, HTree.codes, List.map_cons, List.map_nil, List.cons_append, List.nil_append,
      List.mem_cons, List.mem_map] at hc
    rcases hc with rfl | ⟨d, hd, rfl⟩
    · decide
    · exact ih d hd

/-- A tree of `k + 1` leaves, each right child a leaf. -/
def leftComb : Nat → HTree
  | 0 => .leaf 256
  | k + 1 => .node (leftComb k) (.leaf 65)

theorem size_leftComb (k : Nat) : (leftComb k).size = 2 * k + 1 := by
  induction k with
  | zero => rfl
  | succ k ih => simp [leftComb, HTree.size, ih]; omega

/-- Its header begins with its internal nodes. -/
theorem zeros_prefix_leftComb (k : Nat) : List.replicate k false <+: (leftComb k).wire := by
  induction k with
  | zero => exact List.nil_prefix
  | succ k ih => exact (List.prefix_cons_inj false).mpr (ih.trans (List.prefix_append ..))

theorem ones_prefix_leftComb (k : Nat) : List.replicate k [1] <+: (leftComb k).reads := by
  induction k with
  | zero => exact List.nil_prefix
  | succ k ih => exact (List.prefix_cons_inj [1]).mpr (ih.trans (List.prefix_append ..))

/-- The first `n` tokens of a tree that begins with as many internal nodes have one bit each. -/
theorem sum_take_leftComb {n k : Nat} (h : n ≤ k) : ((leftComb k).reads.take n).flatten.sum = n := by
  obtain ⟨t, ht⟩ := ones_prefix_leftComb k
  rw [← ht, List.take_append_of_le_length (by simpa using h), List.take_replicate, Nat.min_eq_left h]
  simp

theorem take_leftComb (k : Nat) : (leftComb k).wire.take k = List.replicate k false := by
  have h := List.prefix_iff_eq_take.mp (zeros_prefix_leftComb k)
  rw [List.length_replicate] at h
  exact h.symm

theorem isTree_pair (s : State) (h : s.node = pairState.node) : IsTree s.nodeAt 0 pairTree [0, 1, 2] := by
  have h0 := nodeAt_poolOf s _ h 0 _ (by decide) rfl
  have h1 := nodeAt_poolOf s _ h 1 _ (by decide) rfl
  have h2 := nodeAt_poolOf s _ h 2 _ (by decide) rfl
  refine .node 0 _ _ [1] [2] (by rw [h0]) ?_ ?_
  · rw [h0]; exact .leaf 1 256 (by rw [h1]) (by rw [h1])
  · rw [h0]; exact .leaf 2 65 (by rw [h2]) (by rw [h2])

theorem holdsTree_pair : HoldsTree pairState pairTree :=
  ⟨rfl, ⟨[0, 1, 2], isTree_pair pairState rfl, by decide, by decide, by simp [pairState]⟩, by decide, by decide⟩

theorem root_pair : (pairState.nodeAt pairState.root).isLeaf = false := by
  have h0 := nodeAt_poolOf pairState _ rfl 0 _ (by decide) rfl
  show (pairState.nodeAt 0).isLeaf = false
  rw [h0]

theorem root_leafState : (leafState.nodeAt leafState.root).isLeaf = true := by
  have h0 := nodeAt_poolOf leafState _ rfl 0 _ (by decide) rfl
  show (leafState.nodeAt 0).isLeaf = true
  rw [h0]

/-! ## Encoding and stepping -/

theorem witness_DecodeOfEncodeIsTheInstruction : WellFormed (.leaf 511) ∧ WellFormed .magic ∧ WellFormed .decompress := by
  decide

theorem witness_DecodedBitsAreTheEncoding :
    decodeAt .tree leaf65 = .ok (.leaf 65, []) ∧ decodeAt .preamble magicBits = .ok (.magic, []) ∧
      decodeAt .command (bitsN 32 12) = .ok (.decompress, []) := by decide

theorem witness_IllegalWordsRaiseIllegalCommand : ∀ w ∈ [(0x0D : Word), 0x100, 0xFFFFFFFF],
    (withEvent (.write 32 0x08 w)).phase = .idle ∧ (withEvent (.write 32 0x08 w)).resetLine = false ∧
      (withEvent (.write 32 0x08 w)).host = [.write 32 0x08 w] ∧ 0x0C < w.toNat := by
  intro w hw
  refine ⟨rfl, rfl, rfl, ?_⟩
  fin_cases hw <;> decide

theorem witness_StepRunsTheDecodedInstruction :
    (∃ (s : State) (w : Word) (rest : List HostEvent) (i : Instr), s.phase = .idle ∧ s.resetLine = false ∧
      s.host = .write 32 0x08 w :: rest ∧ decodeCommand w = .ok i) ∧
    (∃ (s s' : State) (i : Instr) (rest : Bits), s.phase ≠ .idle ∧ nextTurn s = (.engine, s') ∧ s.waiting = false ∧
      s.work = .getMagic ∧ decodeAt .preamble s.bsrcRest = .ok (i, rest)) ∧
    (∃ (s s' : State) (st : List Frame) (i : Instr) (rest : Bits), s.phase ≠ .idle ∧ nextTurn s = (.engine, s') ∧
      s.waiting = false ∧ s.work = .getToken st ∧ decodeAt .tree s.bsrcRest = .ok (i, rest)) ∧
    (∃ s s' : State, s.phase ≠ .idle ∧ nextTurn s = (.engine, s') ∧ s.waiting = false ∧ s.awaitedToken = none) :=
  ⟨⟨withEvent (.write 32 0x08 0x0C), 0x0C, [], .decompress, rfl, rfl, rfl, rfl⟩,
    ⟨{ withBsrc magicBits with phase := .busy 0x0A, work := .getMagic }, _, .magic, [], nofun, rfl, rfl, rfl, by decide⟩,
    ⟨parsingState, _, _, .leaf 65, [], nofun, rfl, rfl, rfl, by decide⟩,
    ⟨walkingState, _, nofun, rfl, rfl, rfl⟩⟩

/-! ## Reset and the register window -/

theorem witness_ResetRegisterValues : (⟨0x3FF, 15, 2⟩ : TblAddr).table ≠ 3 := by decide

theorem witness_ReleasedResetGivesResetValues : ∃ (s : State) (rest : List HostEvent),
    s.resetLine = true ∧ s.phase = .idle ∧ s.host = .releaseReset :: rest :=
  ⟨{ withEvent .releaseReset with resetLine := true, done := true }, [], rfl, rfl, rfl⟩

theorem witness_ResetAbandonsARunningCommand : ∃ (s : State) (rest : List HostEvent),
    s.phase ≠ .idle ∧ HostTurn s ∧ s.host = .assertReset :: rest :=
  ⟨{ walkingState with host := [.assertReset], sched := [.host] }, [], nofun, .inr (.inl rfl), rfl⟩

theorem witness_UndefinedAccessesAreRefused :
    (∃ (s : State) (rest : List HostEvent), HostTurn s ∧ s.resetLine = false ∧ s.host = .write 16 0x00 0 :: rest) ∧
    (∃ (s : State) (rest : List HostEvent), HostTurn s ∧ s.resetLine = false ∧ (0x02 : Nat) % 4 ≠ 0 ∧
      s.host = .read 32 0x02 :: rest) ∧
    (∃ (s : State) (rest : List HostEvent), HostTurn s ∧ s.resetLine = false ∧ 0xFF < (0x100 : Nat) ∧
      s.host = .read 32 0x100 :: rest) ∧
    (∃ (s : State) (rest : List HostEvent), HostTurn s ∧ s.resetLine = true ∧ s.host = .wait :: rest) :=
  ⟨⟨withEvent (.write 16 0x00 0), [], .inl rfl, rfl, rfl⟩, ⟨withEvent (.read 32 0x02), [], .inl rfl, rfl, by decide, rfl⟩,
    ⟨withEvent (.read 32 0x100), [], .inl rfl, rfl, by decide, rfl⟩,
    ⟨{ withEvent .wait with resetLine := true }, [], .inl rfl, rfl, rfl⟩⟩

/-- A host access and an idle block without one. -/
theorem witness_ResetWhileIdleHoldsTheBlock : (withEvent .assertReset).phase = .idle ∧
    (withEvent .assertReset).host = [.assertReset] ∧ State.reset.phase = .idle ∧ State.reset.host = [] := ⟨rfl, rfl, rfl, rfl⟩

/-- The last offset of the window, while a command runs. -/
theorem witness_ReadsHaveNoSideEffect : 0x48 ≤ 0xFC ∧ ∃ (s : State) (rest : List HostEvent), s.phase ≠ .idle ∧
    HostTurn s ∧ s.resetLine = false ∧ 0xFC % 4 = 0 ∧ 0xFC ≤ 0xFF ∧ s.host = .read 32 0xFC :: rest :=
  ⟨by decide, { walkingState with host := [.read 32 0xFC], sched := [.host] }, [], nofun, .inr (.inl rfl), rfl, rfl, by decide, rfl⟩

/-- While a command runs, and while IDLE. -/
theorem witness_ReadsHaveNoSideEffect_wait :
    (∃ (s : State) (rest : List HostEvent), s.busy = true ∧ HostTurn s ∧ s.resetLine = false ∧ s.host = .wait :: rest) ∧
    (∃ (s : State) (rest : List HostEvent), s.busy = false ∧ HostTurn s ∧ s.resetLine = false ∧ s.host = .wait :: rest) :=
  ⟨⟨{ walkingState with host := [.wait], sched := [.host] }, [], rfl, .inr (.inl rfl), rfl, rfl⟩,
    ⟨withEvent .wait, [], rfl, .inl rfl, rfl, rfl⟩⟩

theorem witness_ReadOnlyWritesAreIgnored : ∃ (s : State) (rest : List HostEvent), HostTurn s ∧ s.resetLine = false ∧
    (0xFC : Nat) % 4 = 0 ∧ 0xFC ≤ 0xFF ∧ 0xFC ∉ [0x08, 0x0C, 0x10, 0x40] ∧ s.host = .write 32 0xFC 1 :: rest :=
  ⟨withEvent (.write 32 0xFC 1), [], .inl rfl, rfl, by decide, by decide, by decide, rfl⟩

theorem witness_IntEnAndTblAddrKeepTheirFields :
    (∃ (s : State) (rest : List HostEvent), HostTurn s ∧ s.resetLine = false ∧ s.host = .write 32 0x10 0xFFFFFFFF :: rest) ∧
    (∃ (s : State) (rest : List HostEvent), HostTurn s ∧ s.resetLine = false ∧ s.host = .write 32 0x40 0xFFFFFFFF :: rest) :=
  ⟨⟨withEvent (.write 32 0x10 0xFFFFFFFF), [], .inl rfl, rfl, rfl⟩,
    ⟨{ walkingState with host := [.write 32 0x40 0xFFFFFFFF], sched := [.host] }, [], .inr (.inl rfl), rfl, rfl⟩⟩

theorem witness_StatusWriteClearsFlags : ∃ (s : State) (rest : List HostEvent),
    HostTurn s ∧ s.resetLine = false ∧ s.host = .write 32 0x0C 0x0000000E :: rest ∧ s.err = true ∧ s.drop = true :=
  ⟨{ withEvent (.write 32 0x0C 0x0000000E) with err := true, drop := true, errCode := .sequence }, [], .inl rfl, rfl, rfl, rfl, rfl⟩

theorem witness_CommandWhileBusyIsDropped :
    (∃ (s : State) (w : Word) (rest : List HostEvent), s.phase ≠ .idle ∧ HostTurn s ∧ s.resetLine = false ∧
      s.host = .write 32 0x08 w :: rest) ∧
    ∃ s s' : State, step s = .next s' ∧ s.drop = true ∧ s'.drop = false :=
  ⟨⟨{ walkingState with host := [.write 32 0x08 0], sched := [.host] }, 0, [], nofun, .inr (.inl rfl), rfl, rfl⟩,
    ⟨{ withEvent (.write 32 0x0C 0x00000008) with drop := true }, _, rfl, rfl, rfl⟩⟩

theorem witness_ReadsWhileBusy : walkingState.phase ≠ .idle := nofun

theorem witness_RegistersReadTheirFields : buildingState.phase = .idle ∧ buildingState.pq.length ≤ 257 ∧
    buildingState.params.wCount ≤ 32 := ⟨rfl, by decide, by decide⟩

/-- One state for each clause, at the first and the last index of its range. -/
theorem witness_TblDataReadsTheSelectedWord :
    (∃ s : State, s.phase = .idle ∧ s.tblAddr.table = 0 ∧ s.freqValid = true ∧ s.tblAddr.index.toNat = 255) ∧
    (∃ s : State, s.phase = .idle ∧ s.tblAddr.table = 1 ∧ s.treeValid = true ∧ s.nodeCount.toNat ≤ 513 ∧
      s.tblAddr.index.toNat < s.nodeCount.toNat ∧ s.tblAddr.index.toNat < 513 ∧ s.tblAddr.word.toNat = 3) ∧
    (∃ s : State, s.phase = .idle ∧ s.tblAddr.table = 1 ∧ s.pqActive = true ∧ s.nodeCount.toNat ≤ 513 ∧
      s.nodeCount.toNat ≤ s.tblAddr.index.toNat) ∧
    (∃ s : State, s.phase = .idle ∧ s.tblAddr.table = 2 ∧ s.codesValid = true ∧ CodesBounded s ∧
      s.tblAddr.index.toNat = 256 ∧ s.tblAddr.word.toNat = 8) ∧
    (∃ s : State, s.phase = .idle ∧ s.tblAddr.table = 3) ∧
    (∃ s : State, s.phase = .idle ∧ s.tblAddr.table = 2 ∧ s.codesValid = false) :=
  ⟨⟨{ countedState with tblAddr := ⟨255, 0, 0⟩ }, rfl, rfl, rfl, rfl⟩,
    ⟨{ pairState with tblAddr := ⟨2, 3, 1⟩ }, rfl, rfl, rfl, by decide, by decide, by decide, rfl⟩,
    ⟨{ buildingState with tblAddr := ⟨3, 0, 1⟩ }, rfl, rfl, rfl, by decide, by decide⟩,
    ⟨{ State.reset with codesValid := true, tblAddr := ⟨256, 8, 2⟩ }, rfl, rfl, rfl, codesBounded_of_reset rfl, rfl, rfl⟩,
    ⟨{ State.reset with tblAddr := ⟨0, 0, 3⟩ }, rfl, rfl⟩, ⟨{ State.reset with tblAddr := ⟨0, 0, 2⟩ }, rfl, rfl, rfl⟩⟩

/-! ## Errors -/

theorem witness_RaiseRecordsTheError : parsingState.phase = .busy 0x0A := rfl

/-- A LEAF token whose value bits are answered `IOERR`, at the last free pool entry; and one state for each port. -/
theorem witness_IoErrorRaisesUpstreamIo :
    (∃ (s : State) (st : List Frame) (p : Bits) (rs : List Reply), s.phase = .busy 0x0A ∧ s.work = .getToken st ∧
      s.bsrcRest = true :: p ∧ s.bsrc.replies = .answer :: .ioerr :: rs ∧ s.nodeCount.toNat < 513) ∧
    (∃ s : State, s.phase = .busy 0x02 ∧ s.work.port = .src ∧ s.replyAt s.work.port = .ioerr) ∧
    (∃ s : State, s.phase = .busy 0x07 ∧ s.work.port = .bsnk ∧ s.replyAt s.work.port = .ioerr) ∧
    (∃ s : State, s.phase = .busy 0x0A ∧ s.work.port = .bsrc ∧ s.replyAt s.work.port = .ioerr) ∧
    (∃ s : State, s.phase = .busy 0x0B ∧ s.work.port = .bysnk ∧ s.replyAt s.work.port = .ioerr) :=
  ⟨⟨{ parsingState with bsrc := ⟨leaf65, 0, [.answer, .ioerr]⟩, nodeCount := 512 }, _, leaf65.tail, [], rfl, rfl, rfl, rfl,
      by decide⟩,
    ⟨{ State.reset with phase := .busy 0x02, work := .countRead, src := ⟨[], 0, [.ioerr]⟩ }, rfl, rfl, rfl⟩,
    ⟨{ pairState with phase := .busy 0x07, work := .putMagic, bsnk := ⟨[], [.ioerr]⟩ }, rfl, rfl, rfl⟩,
    ⟨{ parsingState with bsrc := ⟨leaf65, 0, [.ioerr]⟩ }, rfl, rfl, rfl⟩,
    ⟨{ walkingState with work := .decodeByte 65, bysnk := ⟨[], [.ioerr]⟩ }, rfl, rfl, rfl⟩⟩

theorem witness_PreconditionsAreCheckedFirst :
    (Ready State.reset ∧ State.reset.freqValid = false ∧ State.reset.pqActive = false ∧ State.reset.treeValid = false ∧
      State.reset.codesValid = false) ∧
    (Ready leafState ∧ leafState.treeValid = true ∧ (leafState.nodeAt leafState.root).isLeaf = true) :=
  ⟨⟨⟨rfl, rfl⟩, rfl, rfl, rfl, rfl⟩, ⟨rfl, rfl⟩, rfl, root_leafState⟩

theorem witness_SilentCollaboratorHangsTheCommand : ∃ s : State, s.phase ≠ .idle ∧ s.waiting = true ∧ s.host = [] :=
  ⟨{ walkingState with bsrc := ⟨[true], 0, [.silent]⟩ }, nofun, rfl, rfl⟩

/-! ## Commands -/

/-- For NOP and CLEAR. -/
theorem witness_ready : Ready State.reset := ⟨rfl, rfl⟩

/-- `2^W_COUNT - 1` copies of one byte, the most the hypothesis allows. -/
theorem witness_CountCountsEveryByte : ∃ s : State, Ready s ∧ Answers s.src.replies ∧
    ∀ b, (s.src.data.drop s.src.pos).count b < 2 ^ s.params.wCount := by
  refine ⟨{ withSrc [9, 5, 5, 5] with params := ⟨2⟩ }, ⟨rfl, rfl⟩, answers_nil, ?_⟩
  decide

theorem witness_CountOverflows : ∃ (s : State) (pre post : List Byte) (b : Byte), Ready s ∧ Answers s.src.replies ∧
    s.params.wCount ≤ 32 ∧ s.src.data.drop s.src.pos = pre ++ b :: post ∧ (∀ c, pre.count c < 2 ^ s.params.wCount) ∧
    pre.count b = 2 ^ s.params.wCount - 1 := by
  refine ⟨{ withSrc [5, 5, 5, 5, 6] with params := ⟨2⟩ }, [5, 5, 5], [6], 5, ⟨rfl, rfl⟩, answers_nil,
    by decide, rfl, ?_, by decide⟩
  decide

theorem witness_ExtractMinTakesTheLeastKey : buildingState.pq ≠ [] := nofun

/-- For BUILD_INIT and the statements about BUILD and the codes of a built tree. -/
theorem witness_counted : Ready countedState ∧ countedState.freqValid = true := ⟨⟨rfl, rfl⟩, rfl⟩

/-- A merge that leaves two nodes, and the last one. -/
theorem witness_BuildMergeMergesTheTwoLeast : ∀ s ∈ [buildingState, lastMergeState], Ready s ∧ s.pqActive = true ∧
    2 ≤ s.pq.length ∧ s.pq.Pairwise (· < ·) ∧ (∀ i ∈ s.pq, i < s.nodeCount) ∧ s.nodeCount.toNat < 513 := by
  intro s hs
  simp only [List.mem_cons, List.not_mem_nil, or_false] at hs
  rcases hs with rfl | rfl
  · exact ⟨⟨rfl, rfl⟩, rfl, by decide, by decide, by simp [buildingState], by decide⟩
  · exact ⟨⟨rfl, rfl⟩, rfl, by decide, by decide, by simp [lastMergeState], by decide⟩

theorem witness_BuildDependsOnFreqAlone : ∃ s₁ s₂ t₁ t₂ : State, Ready s₁ ∧ Ready s₂ ∧ s₁.freqValid = true ∧
    s₂.freqValid = true ∧ s₁.freq = s₂.freq ∧ exec .build s₁ = .next t₁ ∧ exec .build s₂ = .next t₂ ∧ s₁ ≠ s₂ :=
  ⟨countedState, { countedState with intEn := 7 }, _, _, ⟨rfl, rfl⟩, ⟨rfl, rfl⟩, rfl, rfl, rfl, rfl, rfl,
    fun h => absurd (congrArg State.intEn h) (by decide)⟩

theorem witness_GencodesRecordsLeafPaths :
    Ready pairState ∧ HoldsTree pairState pairTree ∧ (pairState.nodeAt pairState.root).isLeaf = false :=
  ⟨⟨rfl, rfl⟩, holdsTree_pair, root_pair⟩

theorem witness_WrhdrWritesMagicAndTree : Ready pairState ∧ HoldsTree pairState pairTree ∧ Answers pairState.bsnk.replies :=
  ⟨⟨rfl, rfl⟩, holdsTree_pair, answers_nil⟩

/-- The largest tree, 513 nodes, and the one with a single leaf. -/
theorem witness_RdhdrReadsMagicAndTree : ∀ tree ∈ [comb 0, comb 256], ∃ (s : State) (rest : Bits),
    Ready s ∧ Answers s.bsrc.replies ∧ tree.size ≤ 513 ∧ (∀ c ∈ tree.codes, c.1.toNat < 512) ∧
    s.bsrcRest = bitsN 32 0xFACE8201 ++ tree.wire ++ rest := by
  intro tree h
  refine ⟨withBsrc (bitsN 32 0xFACE8201 ++ tree.wire ++ [true]), [true], ⟨rfl, rfl⟩, answers_nil, ?_, ?_, rfl⟩
  · simp only [List.mem_cons, List.not_mem_nil, or_false] at h
    rcases h with rfl | rfl <;> simp [size_comb]
  · simp only [List.mem_cons, List.not_mem_nil, or_false] at h
    rcases h with rfl | rfl <;> exact codes_comb_lt _

theorem witness_RdhdrRejectsOtherFormats :
    (∃ s : State, Ready s ∧ Answers s.bsrc.replies ∧ s.bsrcRest.length < 32) ∧
    (∃ s : State, Ready s ∧ Answers s.bsrc.replies ∧ 32 ≤ s.bsrcRest.length ∧ num (s.bsrcRest.take 32) ≠ 0xFACE8201) :=
  ⟨⟨withBsrc (magicBits.take 31), ⟨rfl, rfl⟩, answers_nil, by decide⟩,
    ⟨withBsrc (bitsN 32 0xFACE8202), ⟨rfl, rfl⟩, answers_nil, by decide, by decide⟩⟩

/-- Cut before the first bit of the tree section, and before its last. -/
theorem witness_RdhdrDetectsTruncation : ∀ k ∈ [0, 20], ∃ (s : State) (q : Bits), Ready s ∧ Answers s.bsrc.replies ∧
    q.length = k ∧ q <+: pairTree.wire ∧ q ≠ pairTree.wire ∧ q.length ≤ (pairTree.reads.take 513).flatten.sum ∧
    s.bsrcRest = bitsN 32 0xFACE8201 ++ q := by
  intro k hk
  refine ⟨withBsrc (bitsN 32 0xFACE8201 ++ pairTree.wire.take k), pairTree.wire.take k, ⟨rfl, rfl⟩, answers_nil, ?_,
    List.take_prefix .., ?_, ?_, rfl⟩ <;>
  · simp only [List.mem_cons, List.not_mem_nil, or_false] at hk
    rcases hk with rfl | rfl <;> decide

/-- Headers of zeros that no tree of 513 nodes completes: 300 bits, and 513, the most before the flag bit of the 514th node. -/
theorem witness_RdhdrDetectsTruncation_oversized : ∀ k ∈ [300, 513], ∃ s : State, Ready s ∧ Answers s.bsrc.replies ∧
    List.replicate k false <+: (leftComb 514).wire ∧ List.replicate k false ≠ (leftComb 514).wire ∧
    (List.replicate k false).length ≤ ((leftComb 514).reads.take 513).flatten.sum ∧
    s.bsrcRest = bitsN 32 0xFACE8201 ++ List.replicate k false := by
  intro k hk
  have hk : k ≤ 513 := by
    simp only [List.mem_cons, List.not_mem_nil, or_false] at hk
    omega
  refine ⟨withBsrc (bitsN 32 0xFACE8201 ++ List.replicate k false), ⟨rfl, rfl⟩, answers_nil,
    List.IsPrefix.trans ⟨List.replicate (514 - k) false, by rw [List.replicate_append_replicate]; congr 1; omega⟩
      (zeros_prefix_leftComb 514), fun h => ?_, ?_, rfl⟩
  · have := (zeros_prefix_leftComb 514).length_le
    rw [← h, List.length_replicate, List.length_replicate] at this
    omega
  · rw [sum_take_leftComb (by omega), List.length_replicate]
    exact hk

/-- 515 nodes, the least too many, and vector V-RH5: the magic number and 514 zeros, with nothing behind them. -/
theorem witness_RdhdrRejectsOversizedTrees :
    (∃ (s : State) (rest : Bits), Ready s ∧ Answers s.bsrc.replies ∧ 513 < (comb 257).size ∧
      s.bsrcRest = bitsN 32 0xFACE8201 ++ (comb 257).wire.take (((comb 257).reads.take 513).flatten.sum + 1) ++ rest) ∧
    ∃ s : State, Ready s ∧ Answers s.bsrc.replies ∧ 513 < (leftComb 514).size ∧
      s.bsrcRest = bitsN 32 0xFACE8201 ++ (leftComb 514).wire.take (((leftComb 514).reads.take 513).flatten.sum + 1) ++ [] ∧
      s.bsrcRest = bitsN 32 0xFACE8201 ++ List.replicate 514 false :=
  ⟨⟨withBsrc _, [], ⟨rfl, rfl⟩, answers_nil, by simp [size_comb], rfl⟩,
    withBsrc (bitsN 32 0xFACE8201 ++ List.replicate 514 false), ⟨rfl, rfl⟩, answers_nil, by simp [size_leftComb],
    by rw [sum_take_leftComb (by omega), take_leftComb, List.append_nil]; rfl, rfl⟩

theorem witness_HeaderIdempotence : ∃ (s w r : State) (out rest : Bits), Ready s ∧ HoldsTree s pairTree ∧
    (∀ c ∈ pairTree.codes, c.1.toNat < 512) ∧ Answers s.bsnk.replies ∧ exec .wrhdr s = .next w ∧
    w.bsnk.bits = s.bsnk.bits ++ out ∧ Ready r ∧ Answers r.bsrc.replies ∧ r.bsrcRest = out ++ rest ∧
    (s.nodeAt s.root).isLeaf = false :=
  ⟨pairState, runCommand .wrhdr pairState, withBsrc (magicBits ++ [false] ++ leaf256 ++ leaf65 ++ [true]),
    magicBits ++ [false] ++ leaf256 ++ leaf65, [true], ⟨rfl, rfl⟩, holdsTree_pair, by decide, answers_nil, rfl,
    by decide, ⟨rfl, rfl⟩, answers_nil, rfl, root_pair⟩

theorem witness_EncodeWritesCodesAndSentinel : ∃ s : State, Ready s ∧ s.codesValid = true ∧ Answers s.src.replies ∧
    Answers s.bsnk.replies ∧ (∀ b ∈ s.src.data, s.codeOf b ≠ []) ∧ s.eofCode ≠ [] :=
  ⟨{ codedState with src := ⟨[0x61, 0x62], 1, []⟩ }, ⟨rfl, rfl⟩, rfl, answers_nil, answers_nil,
    by decide, by decide⟩

/-- The first byte has no code; the sentinel has none. -/
theorem witness_EncodeRaisesMissingCode :
    (∃ (s : State) (pre post : List Byte) (b : Byte), Ready s ∧ s.codesValid = true ∧ Answers s.src.replies ∧
      Answers s.bsnk.replies ∧ s.src.data = pre ++ b :: post ∧ (∀ c ∈ pre, s.codeOf c ≠ []) ∧ s.codeOf b = []) ∧
    (∃ s : State, Ready s ∧ s.codesValid = true ∧ Answers s.src.replies ∧ Answers s.bsnk.replies ∧
      (∀ c ∈ s.src.data, s.codeOf c ≠ []) ∧ s.eofCode = []) :=
  ⟨⟨{ codedState with src := ⟨[0x61, 0x63], 0, []⟩ }, [0x61], [], 0x63, ⟨rfl, rfl⟩, rfl, answers_nil,
      answers_nil, rfl, by decide, by decide⟩,
    ⟨{ codedState with ct := (Vector.replicate 257 []).set 0x61 [true], src := ⟨[0x61], 0, []⟩ }, ⟨rfl, rfl⟩, rfl, answers_nil,
      answers_nil, by decide, by decide⟩⟩

theorem witness_DecodeWalksTheTree : ∃ (s : State) (syms : List (BitVec 10 × Bits)) (eof rest : Bits), Ready s ∧
    HoldsTree s pairTree ∧ (s.nodeAt s.root).isLeaf = false ∧ Answers s.bsrc.replies ∧ Answers s.bysnk.replies ∧
    (∀ c ∈ syms, c ∈ pairTree.codes ∧ c.1.toNat ≠ 256) ∧ (256, eof) ∈ pairTree.codes ∧
    s.bsrcRest = (syms.map Prod.snd).flatten ++ eof ++ rest :=
  ⟨{ pairState with bsrc := ⟨[true, false, true], 0, []⟩ }, [(65, [true])], [false], [true], ⟨rfl, rfl⟩,
    ⟨rfl, ⟨[0, 1, 2], isTree_pair _ rfl, by decide, by decide, by simp [pairState]⟩, by decide, by decide⟩, root_pair, answers_nil,
    answers_nil, by decide, by decide, rfl⟩

theorem witness_DecodeDetectsTruncation : ∃ (s : State) (syms : List (BitVec 10 × Bits)) (v : BitVec 10) (p q : Bits),
    Ready s ∧ HoldsTree s pairTree ∧ (s.nodeAt s.root).isLeaf = false ∧ Answers s.bsrc.replies ∧
    Answers s.bysnk.replies ∧ (∀ c ∈ syms, c ∈ pairTree.codes ∧ c.1.toNat ≠ 256) ∧ (v, p) ∈ pairTree.codes ∧
    q <+: p ∧ q ≠ p ∧ s.bsrcRest = (syms.map Prod.snd).flatten ++ q :=
  ⟨{ pairState with bsrc := ⟨[true], 0, []⟩ }, [(65, [true])], 256, [false], [], ⟨rfl, rfl⟩,
    ⟨rfl, ⟨[0, 1, 2], isTree_pair _ rfl, by decide, by decide, by simp [pairState]⟩, by decide, by decide⟩, root_pair, answers_nil,
    answers_nil, by decide, by decide, List.nil_prefix, by decide, rfl⟩

/-! ## Composite commands -/

/-- COUNT fails; WRHDR fails; ENCODE ends. -/
theorem witness_CompressRunsItsPhases :
    (∃ s a : State, Ready s ∧ exec .count s = .next a ∧ a.err = true) ∧
    (∃ s a b c d : State, Ready s ∧ exec .count s = .next a ∧ a.err = false ∧ a.phase = .idle ∧
      exec .build a = .next b ∧ exec .gencodes b = .next c ∧ exec .wrhdr c = .next d ∧ d.err = true) ∧
    (∃ s a b c d e : State, Ready s ∧ exec .count s = .next a ∧ a.err = false ∧ a.phase = .idle ∧
      exec .build a = .next b ∧ exec .gencodes b = .next c ∧ exec .wrhdr c = .next d ∧ d.err = false ∧
      d.phase = .idle ∧ exec .encode d = .next e ∧ e.phase = .idle) := by
  refine ⟨⟨{ withSrc [] with src := ⟨[], 0, [.ioerr]⟩ }, _, ⟨rfl, rfl⟩, rfl, by decide⟩,
    ⟨{ withSrc [] with bsnk := ⟨[], [.ioerr]⟩ }, _, _, _, _, ⟨rfl, rfl⟩, rfl, by decide, by decide,
      rfl, rfl, rfl, by decide⟩,
    ⟨withSrc [], _, _, _, _, _, ⟨rfl, rfl⟩, rfl, by decide, by decide, rfl, rfl, rfl,
      by decide, by decide, rfl, by decide⟩⟩

/-- For COMPRESS and the round trip: `2^W_COUNT - 1` copies of one byte, the most the hypothesis allows. -/
theorem witness_CompressWritesHeaderAndBody : ∃ s : State, Ready s ∧ Answers s.src.replies ∧ Answers s.bsnk.replies ∧
    s.src.pos = 0 ∧ s.params.wCount ≤ 32 ∧ ∀ b, s.src.data.count b < 2 ^ s.params.wCount := by
  refine ⟨{ withSrc [5, 5, 5] with params := ⟨2⟩ }, ⟨rfl, rfl⟩, answers_nil, answers_nil, rfl,
    by decide, ?_⟩
  decide

theorem witness_RoundTrip (out : Bits) : ∃ (r : State) (rest : Bits), Ready r ∧ Answers r.bsrc.replies ∧
    Answers r.bysnk.replies ∧ r.bsrcRest = out ++ rest :=
  ⟨withBsrc (out ++ [true]), [true], ⟨rfl, rfl⟩, answers_nil, answers_nil, rfl⟩

theorem witness_DecompressRunsItsPhases :
    (∃ s a : State, Ready s ∧ exec .rdhdr s = .next a ∧ a.err = true) ∧
    (∃ s a b : State, Ready s ∧ exec .rdhdr s = .next a ∧ a.err = false ∧ a.phase = .idle ∧ exec .decode a = .next b ∧
      b.phase = .idle) :=
  ⟨⟨withBsrc [], _, ⟨rfl, rfl⟩, rfl, by decide⟩,
    ⟨withBsrc (magicBits ++ [false] ++ leaf256 ++ leaf65 ++ [true, false]), _, _, ⟨rfl, rfl⟩, rfl, by decide,
      by decide, rfl, by decide⟩⟩

/-! ## Wire tokens -/

theorem witness_MagicStartsTheTreeSection : ∃ (s : State) (rest : Bits), s.work = .getMagic ∧ Answers s.bsrc.replies ∧
    s.bsrcRest = bitsN 32 0xFACE8201 ++ rest :=
  ⟨{ withBsrc (bitsN 32 0xFACE8201 ++ leaf65) with phase := .busy 0x0A, work := .getMagic }, leaf65, rfl,
    answers_nil, rfl⟩

/-- The first and the last free pool entry. -/
theorem witness_InternalOpensASubtree : ∀ n ∈ [(0 : BitVec 10), 512], ∃ (s : State) (st : List Frame) (rest : Bits),
    s.work = .getToken st ∧ Answers s.bsrc.replies ∧ s.bsrcRest = false :: rest ∧ s.nodeCount = n ∧
    s.nodeCount.toNat < 513 := by
  intro n hn
  refine ⟨{ withBsrc [false, true] with phase := .busy 0x0A, work := .getToken [], nodeCount := n }, [], [true], rfl,
    answers_nil, rfl, rfl, ?_⟩
  fin_cases hn <;> decide

/-- The least and the greatest value, on each shape of the pending subtrees. -/
theorem witness_LeafClosesASubtree : ∀ v ∈ [0, 511], ∀ st ∈ [[], [⟨0, none⟩], [⟨0, some 1⟩]],
    ∃ (s : State) (rest : Bits), s.work = .getToken st ∧ Answers s.bsrc.replies ∧ v < 512 ∧
    s.bsrcRest = true :: bitsN 9 v ++ rest ∧ s.nodeCount.toNat < 513 ∧ s.todo = [] := by
  intro v hv st hst
  refine ⟨{ withBsrc (true :: bitsN 9 v ++ [true]) with phase := .busy 0x0A, work := .getToken st, nodeCount := 512 },
    [true], rfl, answers_nil, ?_, rfl, by simp, rfl⟩
  fin_cases hv <;> decide

theorem witness_TokensOnlyWhereAwaited : State.reset.work ≠ .getMagic ∧ (∀ st, State.reset.work ≠ .getToken st) ∧
    (withBsrc [true]).bsrcRest.head? ≠ some false := ⟨nofun, nofun, by decide⟩

theorem witness_IoErrorRaisesUpstreamIo_token : parsingState.awaitedToken = some (.leaf 65) ∧
    ({ parsingState with work := .getMagic, bsrc := ⟨magicBits, 0, []⟩ } : State).awaitedToken = some .magic ∧
    ({ parsingState with bsrc := ⟨[false], 0, []⟩ } : State).awaitedToken = some .internal := by decide

/-! ## Whole-machine rules -/

theorem witness_InstructionsKeepWhatTheyDoNotWrite : ∃ (s t : State), exec .rdhdr s = .next t ∧ s.phase = .idle :=
  ⟨State.reset, _, rfl, rfl⟩

theorem lifecycleInv_idle {s : State} (h : s.phase = .idle) (hw : s.work = .none) (ht : s.todo = []) (he : s.err = false)
    (hc : s.errCode = .none) (hi : s.errInfo = ⟨.none, 0⟩) (h1 : ¬(s.pqActive = true ∧ s.treeValid = true))
    (h2 : s.pqActive = true → 2 ≤ s.pq.length) : LifecycleInv s where
  idleWork := by simp [h, hw]
  idleTodo := fun _ => ht
  busyClear := fun hb => absurd h hb
  errCode := by simp [hc, he]
  errInfo := fun _ => hi
  oneTree := h1
  queueTwo := h2
  countClear := by simp [hw]
  rdhdrClear := by simp [hw, Work.inRdhdr]
  treeUsed := by simp [hw, Work.usesTree]
  codesUsed := by simp [hw, Work.usesCodes]
  resetIdle := fun _ => h

theorem poolInv_pair : PoolInv pairState where
  magic := nofun
  tree := fun _ => ⟨pairTree, holdsTree_pair⟩
  forest := nofun
  pending := nofun
  value := nofun
  walk := nofun
  bytes := nofun

theorem witness_EveryAnsweredCommandEnds :
    Instr.decode.slot = .command ∧ Ready pairState ∧ LifecycleInv pairState ∧ PoolInv pairState ∧ AllAnswered pairState :=
  ⟨rfl, ⟨rfl, rfl⟩, lifecycleInv_idle rfl rfl rfl rfl rfl rfl (by decide) nofun, poolInv_pair,
    ⟨neverSilent_nil, neverSilent_nil, neverSilent_nil, neverSilent_nil⟩⟩

theorem lifecycleInv_walking : LifecycleInv walkingState where
  idleWork := by simp [walkingState]
  idleTodo := nofun
  busyClear := fun _ => ⟨rfl, rfl⟩
  errCode := by simp [walkingState, pairState, State.reset]
  errInfo := fun _ => rfl
  oneTree := by simp [walkingState, pairState, State.reset]
  queueTwo := nofun
  countClear := nofun
  rdhdrClear := nofun
  treeUsed := fun _ => rfl
  codesUsed := nofun
  resetIdle := nofun

theorem poolInv_walking : PoolInv walkingState where
  magic := nofun
  tree := fun _ => ⟨pairTree, rfl, ⟨[0, 1, 2], isTree_pair _ rfl, by decide, by decide, by simp [walkingState, pairState]⟩, by decide, by decide⟩
  forest := nofun
  pending := nofun
  value := nofun
  walk := by
    rintro p hp
    obtain rfl : (0 : NodeIdx) = p := by simpa [walkingState] using hp
    exact ⟨pairTree, [0, 1, 2], isTree_pair _ rfl, by decide, root_pair⟩
  bytes := nofun

theorem lifecycleInv_parsing : LifecycleInv parsingState where
  idleWork := by simp [parsingState]
  idleTodo := nofun
  busyClear := fun _ => ⟨rfl, rfl⟩
  errCode := by simp [parsingState, State.reset]
  errInfo := fun _ => rfl
  oneTree := by simp [parsingState, State.reset]
  queueTwo := nofun
  countClear := nofun
  rdhdrClear := fun _ => ⟨rfl, rfl, rfl⟩
  treeUsed := nofun
  codesUsed := nofun
  resetIdle := nofun

theorem poolInv_parsing : PoolInv parsingState where
  magic := nofun
  tree := nofun
  forest := nofun
  pending := by
    intro st h
    obtain rfl : [⟨0, some 1⟩] = st := by simpa [parsingState] using h
    have h0 := nodeAt_poolOf parsingState _ rfl 0 _ (by decide) rfl
    have h1 := nodeAt_poolOf parsingState _ rfl 1 _ (by decide) rfl
    exact ⟨[0, 1], 1, .second 0 1 (.leaf 256) [1] [] [] 0 (by rw [h0]) (.leaf 1 256 (by rw [h1]) (by rw [h1])) .nil,
      ⟨by decide, by decide, by simp [parsingState], by decide⟩, by decide⟩
  value := nofun
  walk := nofun
  bytes := nofun

theorem lifecycleInv_lastMerge : LifecycleInv lastMergeState :=
  lifecycleInv_idle rfl rfl rfl rfl rfl rfl (by decide) (by decide)

theorem poolInv_lastMerge : PoolInv lastMergeState where
  magic := nofun
  tree := nofun
  forest := by
    intro _
    have h0 := nodeAt_poolOf lastMergeState _ rfl 0 _ (by decide) rfl
    have h1 := nodeAt_poolOf lastMergeState _ rfl 1 _ (by decide) rfl
    refine ⟨⟨[(.leaf 65, [0]), (.leaf 256, [1])], ?_, ⟨by decide, by decide, by simp [lastMergeState], by decide⟩, by decide, by decide⟩,
      by decide⟩
    exact .cons (.leaf 0 65 (by rw [h0]) (by rw [h0])) (.cons (.leaf 1 256 (by rw [h1]) (by rw [h1])) .nil)
  pending := nofun
  value := nofun
  walk := nofun
  bytes := nofun

/-- GENCODES runs from a table in form, a merge from a queue in form. -/
theorem witness_StepKeepsTheTablesInForm :
    (∃ s s' : State, CodesBounded s ∧ QueueCanonical s ∧ step s = .next s' ∧ s.work = .start .gencodes) ∧
    (∃ s s' : State, CodesBounded s ∧ QueueCanonical s ∧ step s = .next s' ∧ s.work = .start .buildMerge) :=
  ⟨⟨{ pairState with phase := .busy 0x06, work := .start .gencodes }, _, codesBounded_of_reset rfl, List.Pairwise.nil, rfl, rfl⟩,
    ⟨{ lastMergeState with phase := .busy 0x04, work := .start .buildMerge }, _, codesBounded_of_reset rfl,
      by simp only [QueueCanonical]; decide, rfl, rfl⟩⟩

/-- For the invariants: a state inside DECODE, one inside RDHDR, and one in the middle of a build, each with its next step. -/
theorem witness_invariants :
    (∃ s s' : State, LifecycleInv s ∧ PoolInv s ∧ QueueCanonical s ∧ step s = .next s' ∧ s.work = .decodeBit 0) ∧
    (∃ s s' : State, LifecycleInv s ∧ PoolInv s ∧ QueueCanonical s ∧ step s = .next s' ∧ s.work.inRdhdr = true) ∧
    (∃ s s' : State, LifecycleInv s ∧ PoolInv s ∧ QueueCanonical s ∧ step s = .next s' ∧ s.pqActive = true) :=
  ⟨⟨walkingState, _, lifecycleInv_walking, poolInv_walking, List.Pairwise.nil, rfl, rfl⟩,
    ⟨parsingState, _, lifecycleInv_parsing, poolInv_parsing, List.Pairwise.nil, rfl, rfl⟩,
    ⟨lastMergeState, _, lifecycleInv_lastMerge, poolInv_lastMerge, by simp only [QueueCanonical]; decide, rfl, rfl⟩⟩

end Sys2Proof.Tests
end

/-! # What one step can do

`step` inverted once. Every invariant is then proved of the few moves there are (`KeptByMoves`): a piece of the engine's work, an
accepted command, a refused command word, a STATUS write, a move of the outside, and the two ends of reset. -/

namespace Sys2Proof.Machine

/-! ## Executing what is fetched -/

/-- A command is a write of its word to COMMAND (R81). -/
theorem exec_command {i : Instr} (h : i.slot = .command) (s : State) : exec i s = .next (runCommand i s) := by
  cases i with
  | magic => cases h
  | internal => cases h
  | leaf v => cases h
  | _ => rfl

/-- A command word decodes to a command, never to a wire token. -/
theorem slot_of_decodeCommand {w : Word} {i : Instr} (h : decodeCommand w = .ok i) : i.slot = .command := by
  unfold decodeCommand commandOfOpc at h
  split at h
  · cases h
  · split at h
    · cases h
    · split at h <;> cases h <;> rfl

/-- The token the deserializer awaits while it is at the preamble is MAGIC. -/
theorem awaitedToken_getMagic {s : State} {i : Instr} (hw : s.work = .getMagic) (h : s.awaitedToken = some i) :
    i = .magic := by
  simp only [State.awaitedToken, hw, decodeAt, decodePreamble] at h
  split at h
  · cases h
  · split at h
    · cases h; rfl
    · cases h

/-- The token the deserializer awaits in the tree section: the first bit tells which. -/
theorem awaitedToken_getToken {s : State} {st : List Frame} {i : Instr} (hw : s.work = .getToken st)
    (h : s.awaitedToken = some i) :
    (∃ p, s.bsrcRest = false :: p ∧ i = .internal) ∨
      ∃ p, s.bsrcRest = true :: p ∧ i = .leaf (num (p.take 9)) := by
  simp only [State.awaitedToken, hw, decodeAt] at h
  cases hr : s.bsrcRest with
  | nil => rw [hr] at h; cases h
  | cons b p =>
    rw [hr] at h
    cases b with
    | false => cases h; exact .inl ⟨p, rfl, rfl⟩
    | true =>
      rw [decodeTree] at h
      split at h
      · cases h
      · cases h; exact .inr ⟨p, rfl, rfl⟩

/-- Executing a wire token where it is awaited is the engine's next piece of work (R142). -/
theorem exec_of_awaited {s : State} {i : Instr} (h : s.awaitedToken = some i) : exec i s = .next (tick s) := by
  cases hw : s.work with
  | getMagic =>
    obtain rfl := awaitedToken_getMagic hw h
    simp only [exec, execMagic, if_pos h, tick, hw]
  | getToken st =>
    have hp : s.pending = st := by simp only [State.pending, hw]
    rcases awaitedToken_getToken hw h with ⟨p, hr, rfl⟩ | ⟨p, hr, rfl⟩
    · simp only [exec, execInternal, if_pos h, tick, hw, getTokenTick, hr, hp]
    · simp only [exec, execLeaf, if_pos h, tick, hw, getTokenTick, hr, hp]
  | _ => simp [State.awaitedToken, hw] at h

/-- Whichever way the engine moves, it does its next piece of work. -/
def Action.outcome : Action → Host.Outcome State Fault Refusal
  | .run i s => exec i s
  | .next s => .next s
  | .refuse r => .refused r

theorem step_eq_outcome (s : State) : step s = (fetch s).outcome := by
  unfold step
  cases fetch s <;> rfl

theorem outcome_engineMove (s : State) : (engineMove s).outcome = .next (tick s) := by
  unfold engineMove
  cases h : s.awaitedToken with
  | none => rfl
  | some i => exact exec_of_awaited h

/-! ## Whose turn it is -/

/-- Taking a turn changes nothing but the list of turns. -/
theorem nextTurn_eq (s : State) : nextTurn s = ((nextTurn s).1, { s with sched := s.sched.tail }) := by
  cases s with
  | mk => rename_i sched _; cases sched <;> rfl

/-- A step in the host's turn is the host's move (R71). -/
theorem fetch_of_hostTurn {s : State} (h : HostTurn s) : fetch s = hostMove (hostServed s) := by
  cases hp : s.phase with
  | idle => simp [fetch, State.busy, hp, hostServed]
  | busy op =>
    have hs : hostServed s = { s with sched := s.sched.tail } := by rw [hostServed]; simp only [hp]
    rw [hs, fetch, busy_of_phase hp, if_pos rfl, nextTurn_eq]
    cases hn : (nextTurn s).1 with
    | engine =>
      have hw : s.waiting = true := by simpa [HostTurn, hp, hn] using h
      simp only [hw, if_pos]
    | host => rfl

/-- A step in the engine's turn is its next piece of work. -/
theorem step_of_engineTurn {s t : State} (hb : s.phase ≠ .idle) (hn : nextTurn s = (.engine, t))
    (hw : s.waiting = false) : step s = (engineMove t).outcome := by
  simp [step_eq_outcome, fetch, State.busy, hb, hn, hw]

/-- The turn is the host's or the engine's. -/
theorem hostTurn_or_engineTurn (s : State) :
    HostTurn s ∨ s.phase ≠ .idle ∧ (nextTurn s).1 = .engine ∧ s.waiting = false := by
  cases hn : (nextTurn s).1 with
  | host => exact .inl (.inr (.inl hn))
  | engine =>
    by_cases hp : s.phase = .idle
    · exact .inl (.inl hp)
    · cases hw : s.waiting with
      | false => exact .inr ⟨hp, rfl, rfl⟩
      | true => exact .inl (.inr (.inr hw))

/-- `hostServed` differs from the state in the list of turns alone. -/
theorem hostServed_frame (s : State) : ∃ r, hostServed s = { s with sched := r } := by
  unfold hostServed
  split
  · exact ⟨s.sched, rfl⟩
  · exact ⟨s.sched.tail, rfl⟩

/-! ## The moves -/

/-- `t` differs from `s` in nothing but DROP, what the host writes at any time, the environment, and the model's own fields. -/
def OutsideOnly (s t : State) : Prop :=
  t = { s with
    drop := t.drop, intEn := t.intEn, tblAddr := t.tblAddr
    src := t.src, bsnk := t.bsnk, bsrc := t.bsrc, bysnk := t.bysnk
    host := t.host, reads := t.reads, sched := t.sched, draws := t.draws }

theorem OutsideOnly.refl (s : State) : OutsideOnly s s := rfl

theorem OutsideOnly.trans {s t u : State} (h : OutsideOnly s t) (g : OutsideOnly t u) : OutsideOnly s u := by
  unfold OutsideOnly at *
  rw [g, h]

/-- What a read leaves: the state, with at most a free value drawn. -/
def DrawsOnly (s : State) (p : Word × State) : Prop := ∃ d, p.2 = { s with draws := d }

theorem drawsOnly_pair (w : Word) (s : State) : DrawsOnly s (w, s) := ⟨s.draws, rfl⟩

theorem drawsOnly_drawWord (s : State) : DrawsOnly s (drawWord s) := ⟨s.draws + 1, rfl⟩

theorem drawsOnly_readIdle (w : Word) (s : State) : DrawsOnly s (readIdle w s) := by
  unfold readIdle
  split
  · exact drawsOnly_drawWord s
  · exact drawsOnly_pair w s

theorem drawsOnly_readStatus (s : State) : DrawsOnly s (readStatus s) := by
  unfold readStatus
  split
  · exact ⟨s.draws + 1, rfl⟩
  · exact drawsOnly_pair _ s

theorem drawsOnly_readTblData (s : State) : DrawsOnly s (readTblData s) := by
  unfold readTblData
  split
  · exact drawsOnly_drawWord s
  · exact drawsOnly_pair _ s

/-- A read has no side effect (R70): only the model's count of free values changes. -/
theorem drawsOnly_readReg (addr : Nat) (s : State) : DrawsOnly s (readReg addr s) := by
  unfold readReg
  split <;> simp only [drawsOnly_pair, drawsOnly_readIdle, drawsOnly_readStatus, drawsOnly_readTblData]

/-- A host read changes the host's record and the count of free values. -/
theorem hostRead_eq (addr : Nat) (s : State) : ∃ d,
    hostRead addr s = { s with reads := (addr, (readReg addr s).1) :: s.reads, draws := d } := by
  obtain ⟨d, h⟩ := drawsOnly_readReg addr s
  exact ⟨d, by simp only [hostRead, h]⟩

/-- One round of WAIT is a read of STATUS; the wait is over where BUSY reads 0 (R85). -/
theorem hostWait_eq (s : State) : ∃ d, hostWait s = { s with
    host := if s.busy then s.host else s.host.tail
    reads := (statusOffset, (readReg statusOffset s).1) :: s.reads, draws := d } := by
  obtain ⟨d, h⟩ := hostRead_eq statusOffset s
  refine ⟨d, ?_⟩
  cases hb : s.busy with
  | true => simp [hostWait, h, hb]
  | false => simp [hostWait, h, hb, popEvent]

theorem outsideOnly_popEvent (s : State) : OutsideOnly s (popEvent s) := rfl

theorem outsideOnly_hostRead (addr : Nat) (s : State) : OutsideOnly s (hostRead addr s) := by
  obtain ⟨d, h⟩ := hostRead_eq addr s
  rw [h]
  rfl

theorem outsideOnly_hostWait (s : State) : OutsideOnly s (hostWait s) := by
  obtain ⟨d, h⟩ := hostWait_eq s
  rw [h]
  rfl

theorem outsideOnly_setReplies (port : PortId) (rs : List Reply) (s : State) :
    OutsideOnly s (setReplies port rs s) := by
  cases port <;> rfl

/-- An access that is served, out of reset and inside the window (R61, R220). -/
theorem accessed_cases {width addr : Nat} {s t : State} {served : Action}
    (h : (accessed width addr s served).outcome = .next t) : s.resetLine = false ∧ served.outcome = .next t := by
  unfold accessed at h
  split at h
  · cases h
  · rename_i hr
    split at h
    · exact ⟨by simpa using hr, h⟩
    · cases h

/-- A command runs by pieces of work and turns (R230): what both keep, a run keeps. -/
theorem run_keeps {P : State → Prop} (turn : ∀ s, P s → P { s with sched := s.sched.tail })
    (work : ∀ s, s.phase ≠ .idle → P s → P (tick s)) (k : Nat) {s : State} (hs : P s) : P (run k s) := by
  induction k generalizing s with
  | zero => exact hs
  | succ k ih =>
    unfold run
    split
    · exact hs
    · rename_i hgo
      have hb : s.phase ≠ .idle := fun h => hgo (by simp [State.busy, h])
      rw [nextTurn_eq]
      cases (nextTurn s).1 with
      | engine => exact ih (work _ hb (turn s hs))
      | host => exact hs

/-- A property that every move keeps: a piece of the engine's work, an accepted command, an illegal command word, a write to STATUS, a
move of the outside, and the assertion and the release of reset. -/
structure KeptByMoves (P : State → Prop) : Prop where
  work         : ∀ s, s.phase ≠ .idle → P s → P (tick s)
  accepted     : ∀ i s, s.phase = .idle → s.resetLine = false → P s → P (accept (commandWord i) (.start i) s)
  illegal      : ∀ w s, s.phase = .idle → P s → P (illegalCommand w s)
  acknowledged : ∀ w s, P s → P (acknowledge w s)
  outside      : ∀ s t, OutsideOnly s t → P s → P t
  abandoned    : ∀ s, P s → P (assertReset s)
  released     : ∀ s, P s → P (releaseReset s)

namespace KeptByMoves

variable {P : State → Prop} (K : KeptByMoves P)
include K

theorem run (k : Nat) {s : State} (hs : P s) : P (run k s) :=
  run_keeps (fun s h => K.outside s _ rfl h) K.work k hs

/-- A COMMAND write (R25): dropped while BUSY, refused when it does not decode, else the command is accepted and runs. -/
theorem commandWrite (w : Word) {s t : State} (hr : s.resetLine = false)
    (h : (commandWrite w s).outcome = .next t) (hs : P s) : P t := by
  unfold Machine.commandWrite at h
  split at h
  · cases h
    exact K.outside s _ rfl hs
  · rename_i hb
    have hp : s.phase = .idle := by simpa [State.busy] using hb
    split at h
    · rename_i i hi
      rw [Action.outcome, exec_command (slot_of_decodeCommand hi), runCommand_of_idle i hp] at h
      cases h
      exact K.run _ (K.accepted i s hp hr hs)
    · cases h
      exact K.illegal w s hp hs

theorem writeReg (addr : Nat) (w : Word) {s : State} (hs : P s) : P (writeReg addr w s) := by
  unfold Machine.writeReg
  split
  · exact K.acknowledged w s hs
  · exact K.outside s _ rfl hs
  · exact K.outside s _ rfl hs
  · exact hs

/-- Whatever the host or the environment does next. -/
theorem hostMove {s t : State} (h : (hostMove s).outcome = .next t) (hs : P s) : P t := by
  have hpop : P (popEvent s) := K.outside s _ (outsideOnly_popEvent s) hs
  unfold Machine.hostMove at h
  split at h
  · cases h; exact hs
  · obtain ⟨hr, h⟩ := accessed_cases h
    split at h
    · exact K.commandWrite (s := popEvent s) _ hr h hpop
    · cases h; exact K.writeReg _ _ hpop
  · cases (accessed_cases h).2
    exact K.outside _ _ (outsideOnly_hostRead _ _) hpop
  · cases (accessed_cases h).2
    exact K.outside s _ (outsideOnly_hostWait s) hs
  · cases h; exact K.abandoned _ hpop
  · cases h; exact K.released _ hpop
  · cases h; exact K.outside s _ rfl hs
  · cases h; exact K.outside s _ rfl hs
  · cases h; exact K.outside s _ rfl hs
  · cases h; exact K.outside s _ rfl hs
  · cases h; exact K.outside _ _ (outsideOnly_setReplies ..) hpop

/-- What every move keeps, every step keeps. -/
theorem step {s t : State} (h : step s = .next t) (hs : P s) : P t := by
  rcases hostTurn_or_engineTurn s with hh | ⟨hb, hn, hw⟩
  · rw [step_eq_outcome, fetch_of_hostTurn hh] at h
    obtain ⟨r, hr⟩ := hostServed_frame s
    rw [hr] at h
    exact K.hostMove h (K.outside s _ rfl hs)
  · rw [step_of_engineTurn hb (hn ▸ nextTurn_eq s) hw, outcome_engineMove] at h
    cases h
    exact K.work _ hb (K.outside s _ rfl hs)

end KeptByMoves

end Sys2Proof.Machine

/-! # What one piece of work can do

`tick` inverted once (`Worked`): what each port transaction may change (`Transacted`), and the few ways a piece of work ends. The
invariants and the frame of the instructions are proved of these. -/

namespace Sys2Proof.Machine

/-! ## Port transactions -/

/-- `u` differs from `s` by at most one transaction of the port the engine is at: its collaborator, the counters, EOS_SEEN and the count
of free values. -/
structure Transacted (s u : State) : Prop where
  frame : u = { s with
    eosSeen := u.eosSeen, symIn := u.symIn, bitsOut := u.bitsOut, bitsIn := u.bitsIn, bytesOut := u.bytesOut
    hdrBits := u.hdrBits, src := u.src, bsnk := u.bsnk, bsrc := u.bsrc, bysnk := u.bysnk, draws := u.draws }
  src   : s.work.port ≠ .src → u.src = s.src
  bsnk  : s.work.port ≠ .bsnk → u.bsnk = s.bsnk
  bsrc  : s.work.port ≠ .bsrc → u.bsrc = s.bsrc
  bysnk : s.work.port ≠ .bysnk → u.bysnk = s.bysnk

theorem Transacted.refl (s : State) : Transacted s s := ⟨rfl, fun _ => rfl, fun _ => rfl, fun _ => rfl, fun _ => rfl⟩

/-- Counting in a register is part of the transaction. -/
theorem Transacted.counted {s u v : State} (h : Transacted s u)
    (hv : v = { u with
      eosSeen := v.eosSeen, symIn := v.symIn, bitsOut := v.bitsOut, bitsIn := v.bitsIn, bytesOut := v.bytesOut
      hdrBits := v.hdrBits }) : Transacted s v where
  frame := by rw [hv, h.frame]
  src := fun hp => by rw [hv]; exact h.src hp
  bsnk := fun hp => by rw [hv]; exact h.bsnk hp
  bsrc := fun hp => by rw [hv]; exact h.bsrc hp
  bysnk := fun hp => by rw [hv]; exact h.bysnk hp

theorem transacted_srcRead {s : State} (hp : s.work.port = .src) : Transacted s (srcRead s).2 := by
  obtain ⟨r, pos, rs, d, h⟩ := srcRead_frame s
  rw [h]
  exact ⟨rfl, fun hn => absurd hp hn, fun _ => rfl, fun _ => rfl, fun _ => rfl⟩

theorem transacted_srcRewind {s : State} (hp : s.work.port = .src) : Transacted s (srcRewind s).2 := by
  obtain ⟨r, pos, rs, d, h⟩ := srcRewind_frame s
  rw [h]
  exact ⟨rfl, fun hn => absurd hp hn, fun _ => rfl, fun _ => rfl, fun _ => rfl⟩

theorem transacted_sinkWrite {s : State} (hp : s.work.port = .bsnk) (c : Bits) : Transacted s (sinkWrite c s).2 := by
  obtain ⟨r, k, rs, d, h⟩ := sinkWrite_frame c s
  rw [h]
  exact ⟨rfl, fun _ => rfl, fun hn => absurd hp hn, fun _ => rfl, fun _ => rfl⟩

theorem transacted_bitRead {s : State} (hp : s.work.port = .bsrc) (n : Nat) : Transacted s (bitRead n s).2 := by
  obtain ⟨r, pos, rs, d, h⟩ := bitRead_frame n s
  rw [h]
  exact ⟨rfl, fun _ => rfl, fun _ => rfl, fun hn => absurd hp hn, fun _ => rfl⟩

theorem transacted_byteWrite {s : State} (hp : s.work.port = .bysnk) (v : Byte) : Transacted s (byteWrite v s).2 := by
  obtain ⟨r, k, rs, d, h⟩ := byteWrite_frame v s
  rw [h]
  exact ⟨rfl, fun _ => rfl, fun _ => rfl, fun _ => rfl, fun hn => absurd hp hn⟩

/-- What a port procedure leaves: the command goes on, an error is raised, or the engine waits where it was. -/
inductive PortedBy (s : State) {α : Type} : Ported α → Prop where
  | go (v : α) (u : State) : Transacted s u → PortedBy s (.go v u)
  | error (e : ErrCode) (q : PortId) (u : State) : e ≠ .none → Transacted s u → PortedBy s (.stop (raise e q u))
  | wait (u : State) : Transacted s u → PortedBy s (.stop u)

theorem put_portedBy {s : State} (hp : s.work.port = .bsnk) (c : Bits) : PortedBy s (put c s) := by
  have h := transacted_sinkWrite hp c
  unfold put
  rcases hr : sinkWrite c s with ⟨_ | _ | _, u⟩ <;> rw [hr] at h
  · exact .go _ _ (h.counted rfl)
  · exact .error _ _ _ nofun h
  · exact .wait _ h

theorem emit_portedBy {s : State} (hp : s.work.port = .bsnk) (c : Bits) : PortedBy s (emit c s) := by
  unfold emit
  split
  · exact .wait _ (.refl s)
  · exact .error _ _ _ nofun ⟨rfl, fun _ => rfl, fun hn => absurd hp hn, fun _ => rfl, fun _ => rfl⟩
  · exact .go _ _ ⟨rfl, fun _ => rfl, fun hn => absurd hp hn, fun _ => rfl, fun _ => rfl⟩

theorem get_portedBy {s : State} (hp : s.work.port = .bsrc) (n : Nat) {e : ErrCode} (he : e ≠ .none) :
    PortedBy s (get n e s) := by
  have h := transacted_bitRead hp n
  unfold get
  rcases hr : bitRead n s with ⟨v | _ | _ | _, u⟩ <;> rw [hr] at h
  · exact .go _ _ (h.counted rfl)
  · exact .error _ _ _ he h
  · exact .error _ _ _ nofun h
  · exact .wait _ h

/-- The flag bit of a token goes on only where the pool has a free entry (R142). -/
theorem getFlag_portedBy {s : State} (hp : s.work.port = .bsrc) :
    PortedBy s (getFlag s) ∧ ∀ u, getFlag s = .go () u → u.nodeCount.toNat < 513 := by
  have h := get_portedBy hp 1 (e := .truncatedHeader) nofun
  unfold getFlag
  generalize get 1 .truncatedHeader s = r at h ⊢
  cases h with
  | go v u hu =>
    dsimp only
    split
    · exact ⟨.error _ _ _ nofun (hu.counted rfl), by simp⟩
    · rename_i hc
      have hlt : u.nodeCount.toNat < 513 := Nat.not_le.mp hc
      refine ⟨.go _ _ (hu.counted rfl), fun t ht => ?_⟩
      rw [← (Ported.go.inj ht).2]
      exact hlt
  | error e q u he hu => exact ⟨.error e q u he hu, by simp⟩
  | wait u hu => exact ⟨.wait u hu, by simp⟩

/-! ## Pieces of work -/

/-- The engine is inside WRHDR's body. -/
def Work.inWrhdr : Work → Bool
  | .putMagic => true
  | .putFlag _ => true
  | .putValue _ => true
  | _ => false

/-- The next pool entry is allocated for a leaf, whose value bits are awaited (R142). -/
def leafAllocated (st : List Frame) (s : State) : State :=
  { s with nodeCount := s.nodeCount + 1, work := .getValue s.nodeCount st }

/-- The next pool entry is allocated for an internal node, whose left subtree is awaited (R142). -/
def internalAllocated (st : List Frame) (s : State) : State :=
  { s.setNode s.nodeCount ⟨false, Config.internalValue, 0, Config.nil, Config.nil⟩ with
    nodeCount := s.nodeCount + 1, work := .getToken (⟨s.nodeCount, none⟩ :: st) }

/-- The leaf allocated at `i` gets its value `v` and is counted (R142). -/
def leafFilled (v : Nat) (i : NodeIdx) (s : State) : State :=
  { s with leafCount := s.leafCount + 1 }.setNode i ⟨true, BitVec.ofNat 10 (v % 512), 0, Config.nil, Config.nil⟩

/-- What one piece of work can do. -/
inductive Worked : State → State → Prop where
  /-- Nothing, but for a transaction: the collaborator is silent. -/
  | wait {s u : State} : Transacted s u → Worked s u
  | error {s u : State} (e : ErrCode) (q : PortId) : e ≠ .none → Transacted s u → Worked s (raise e q u)
  /-- The body of WRHDR, ENCODE or DECODE is done. -/
  | finish {s u : State} : Transacted s u → Worked s (phaseDone u)
  | start {s : State} (i : Instr) : s.work = .start i → Worked s (startBody i s)
  | countByte {s u : State} (f : Vector Word 256) :
      s.work = .countRead → Transacted s u → Worked s { u with freq := f }
  | countEnd {s u : State} : s.work = .countRead → Transacted s u → Worked s (phaseDone { u with freqValid := true })
  | serialize {s u : State} (w : Work) :
      s.work.inWrhdr = true → w.inWrhdr = true → Transacted s u → Worked s { u with work := w }
  | encode {s u : State} (w : Work) :
      s.work.usesCodes = true → w.usesCodes = true → Transacted s u → Worked s { u with work := w }
  | magic {s u : State} : s.work = .getMagic → Transacted s u → Worked s { u with work := .getToken [] }
  | internal {s u : State} (st : List Frame) :
      s.work = .getToken st → u.nodeCount.toNat < 513 → Transacted s u → Worked s (internalAllocated st u)
  /-- LEAF's flag bit, and then what comes of its value bits. -/
  | leafFlag {s u t : State} (st : List Frame) :
      s.work = .getToken st → u.nodeCount.toNat < 513 → Transacted s u → Worked (leafAllocated st u) t → Worked s t
  | leafValue {s u : State} (v : Nat) (i : NodeIdx) (st : List Frame) :
      s.work = .getValue i st → Transacted s u → Worked s (closeSubtree i st (leafFilled v i u))
  | walk {s u : State} (p : NodeIdx) (bit : Nat) :
      s.work = .decodeBit p → Transacted s u → Worked s (arrive (u.descend p bit) u)
  | byte {s u : State} (v : Byte) :
      s.work = .decodeByte v → Transacted s u → Worked s { u with work := .decodeBit u.root }

theorem serNext_worked {s u : State} (st : List NodeIdx) (hw : s.work.inWrhdr = true) (hu : Transacted s u) :
    Worked s (serNext st u) := by
  cases st with
  | nil => exact .finish hu
  | cons i st => exact .serialize _ hw rfl hu

theorem countTick_worked {s : State} (hw : s.work = .countRead) : Worked s (countTick s) := by
  have h := transacted_srcRead (s := s) (by rw [hw]; rfl)
  unfold countTick
  rcases hr : srcRead s with ⟨b | _ | _ | _, u⟩ <;> rw [hr] at h
  · simp only [Machine.countByte]
    split
    · exact .error _ _ nofun (h.counted rfl)
    · exact .countByte _ hw (h.counted (v := { u with symIn := u.symIn + 1 }) rfl)
  · exact .countEnd hw h
  · exact .error _ _ nofun h
  · exact .wait h

theorem putMagicTick_worked {s : State} (hw : s.work = .putMagic) : Worked s (putMagicTick s) := by
  have h := put_portedBy (s := s) (by rw [hw]; rfl) (bitsN 32 Config.magicTree.toNat)
  unfold putMagicTick
  generalize put _ s = r at h ⊢
  cases h with
  | go v u hu => exact .serialize _ (by rw [hw]; rfl) rfl hu
  | error e q u he hu => exact .error e q he hu
  | wait u hu => exact .wait hu

theorem putFlagTick_worked {s : State} {st : List NodeIdx} (hw : s.work = .putFlag st) :
    Worked s (putFlagTick st s) := by
  have hs : s.work.inWrhdr = true := by rw [hw]; rfl
  cases st with
  | nil => exact .finish (.refl s)
  | cons i st =>
    have h := put_portedBy (s := s) (by rw [hw]; rfl) [(s.nodeAt i).isLeaf]
    unfold putFlagTick
    dsimp only
    generalize put _ s = r at h ⊢
    cases h with
    | go v u hu =>
      dsimp only
      split
      · exact .serialize _ hs rfl (hu.counted (v := { u with hdrBits := u.hdrBits + 1 }) rfl)
      · exact serNext_worked _ hs (hu.counted rfl)
    | error e q u he hu => exact .error e q he hu
    | wait u hu => exact .wait hu

theorem putValueTick_worked {s : State} {st : List NodeIdx} (hw : s.work = .putValue st) :
    Worked s (putValueTick st s) := by
  cases st with
  | nil => exact .finish (.refl s)
  | cons i st =>
    have h := put_portedBy (s := s) (by rw [hw]; rfl) (bitsN 9 (s.nodeAt i).value.toNat)
    unfold putValueTick
    dsimp only
    generalize put _ s = r at h ⊢
    cases h with
    | go v u hu => exact serNext_worked _ (by rw [hw]; rfl) (hu.counted rfl)
    | error e q u he hu => exact .error e q he hu
    | wait u hu => exact .wait hu

theorem getMagicTick_worked {s : State} (hw : s.work = .getMagic) : Worked s (getMagicTick s) := by
  have h := get_portedBy (s := s) (by rw [hw]; rfl) 32 (e := .formatMismatch) nofun
  unfold getMagicTick
  generalize get _ _ s = r at h ⊢
  cases h with
  | go v u hu =>
    dsimp only
    split
    · exact .magic hw hu
    · exact .error _ _ nofun hu
  | error e q u he hu => exact .error e q he hu
  | wait u hu => exact .wait hu

theorem internalToken_worked {s : State} {st : List Frame} (hw : s.work = .getToken st) :
    Worked s (internalToken st s) := by
  obtain ⟨h, hc⟩ := getFlag_portedBy (s := s) (by rw [hw]; rfl)
  unfold internalToken
  generalize getFlag s = r at h hc ⊢
  cases h with
  | go v u hu => exact .internal st hw (hc u rfl) hu
  | error e q u he hu => exact .error e q he hu
  | wait u hu => exact .wait hu

theorem leafValue_worked {s : State} {i : NodeIdx} {st : List Frame} (v : Nat) (hw : s.work = .getValue i st) :
    Worked s (leafValue v i st s) := by
  have h := get_portedBy (s := s) (by rw [hw]; rfl) 9 (e := .truncatedHeader) nofun
  unfold leafValue
  generalize get _ _ s = r at h ⊢
  cases h with
  | go _ u hu => exact .leafValue v i st hw (hu.counted (v := { u with hdrBits := u.hdrBits + 9 }) rfl)
  | error e q u he hu => exact .error e q he hu
  | wait u hu => exact .wait hu

theorem leafToken_worked {s : State} {st : List Frame} (v : Nat) (hw : s.work = .getToken st) :
    Worked s (leafToken v st s) := by
  obtain ⟨h, hc⟩ := getFlag_portedBy (s := s) (by rw [hw]; rfl)
  unfold leafToken
  generalize getFlag s = r at h hc ⊢
  cases h with
  | go _ u hu => exact .leafFlag st hw (hc u rfl) hu (leafValue_worked v rfl)
  | error e q u he hu => exact .error e q he hu
  | wait u hu => exact .wait hu

theorem getTokenTick_worked {s : State} {st : List Frame} (hw : s.work = .getToken st) :
    Worked s (getTokenTick st s) := by
  unfold getTokenTick
  split
  · exact leafToken_worked _ hw
  · exact internalToken_worked hw

theorem rewindTick_worked {s : State} (hw : s.work = .rewind) : Worked s (rewindTick s) := by
  have h := transacted_srcRewind (s := s) (by rw [hw]; rfl)
  unfold rewindTick
  rcases hr : srcRewind s with ⟨_ | _ | _, u⟩ <;> rw [hr] at h
  · exact .encode _ (by rw [hw]; rfl) rfl h
  · exact .error _ _ nofun h
  · exact .wait h

theorem emitCode_worked {s u : State} (c : Bits) (last : Bool) (hw : s.work.usesCodes = true)
    (hu : Transacted s u) : Worked s (emitCode c last u) := by
  unfold emitCode
  split
  · exact .error _ _ nofun hu
  · exact .encode _ hw rfl hu

theorem encodeReadTick_worked {s : State} (hw : s.work = .encodeRead) : Worked s (encodeReadTick s) := by
  have h := transacted_srcRead (s := s) (by rw [hw]; rfl)
  have hs : s.work.usesCodes = true := by rw [hw]; rfl
  unfold encodeReadTick
  rcases hr : srcRead s with ⟨b | _ | _ | _, u⟩ <;> rw [hr] at h
  · exact emitCode_worked _ _ hs (h.counted rfl)
  · exact emitCode_worked _ _ hs h
  · exact .error _ _ nofun h
  · exact .wait h

theorem emitTick_worked {s : State} {c : Bits} {last : Bool} (hw : s.work = .emit c last) :
    Worked s (emitTick c last s) := by
  have h := emit_portedBy (s := s) (by rw [hw]; rfl) c
  unfold emitTick
  generalize emit c s = r at h ⊢
  cases h with
  | go v u hu =>
    dsimp only
    split
    · exact .finish hu
    · exact .encode _ (by rw [hw]; rfl) rfl hu
  | error e q u he hu => exact .error e q he hu
  | wait u hu => exact .wait hu

theorem decodeBitTick_worked {s : State} {p : NodeIdx} (hw : s.work = .decodeBit p) :
    Worked s (decodeBitTick p s) := by
  have h := get_portedBy (s := s) (by rw [hw]; rfl) 1 (e := .truncatedBody) nofun
  unfold decodeBitTick
  generalize get _ _ s = r at h ⊢
  cases h with
  | go v u hu => exact .walk p v hw hu
  | error e q u he hu => exact .error e q he hu
  | wait u hu => exact .wait hu

theorem decodeByteTick_worked {s : State} {v : Byte} (hw : s.work = .decodeByte v) :
    Worked s (decodeByteTick v s) := by
  have h := transacted_byteWrite (s := s) (by rw [hw]; rfl) v
  unfold decodeByteTick
  rcases hr : byteWrite v s with ⟨_ | _ | _, u⟩ <;> rw [hr] at h
  · exact .byte v hw (h.counted (v := { u with bytesOut := u.bytesOut + 1 }) rfl)
  · exact .error _ _ nofun h
  · exact .wait h

/-- What one piece of work can do, whatever the engine is at. -/
theorem tick_worked (s : State) : Worked s (tick s) := by
  unfold tick
  split
  · exact .wait (.refl s)
  · exact .start _ ‹_›
  · exact countTick_worked ‹_›
  · exact putMagicTick_worked ‹_›
  · exact putFlagTick_worked ‹_›
  · exact putValueTick_worked ‹_›
  · exact getMagicTick_worked ‹_›
  · exact getTokenTick_worked ‹_›
  · exact leafValue_worked _ ‹_›
  · exact rewindTick_worked ‹_›
  · exact encodeReadTick_worked ‹_›
  · exact emitTick_worked ‹_›
  · exact decodeBitTick_worked ‹_›
  · exact decodeByteTick_worked ‹_›

end Sys2Proof.Machine

/-! # The bodies of the builders

BUILD_INIT's body in closed form (R114), and what the merges leave of the queue (R115). -/

namespace Sys2Proof.Machine

/-! ## BUILD_INIT -/

theorem overlay_getElem (l : List Node) (v : Vector Node 513) (i : Nat) (h : i < 513) :
    (overlay l v)[i] = (l[i]?).getD v[i] := by
  simp [overlay]

@[simp] theorem overlay_nil (v : Vector Node 513) : overlay [] v = v := by
  ext i h
  simp [overlay_getElem]

/-- Writing the entry behind the replaced ones replaces one more. -/
theorem overlay_concat (l : List Node) (n : Node) (v : Vector Node 513) :
    (overlay l v).setIfInBounds l.length n = overlay (l ++ [n]) v := by
  ext i h
  rw [Vector.getElem_setIfInBounds, overlay_getElem, overlay_getElem]
  by_cases hi : l.length = i
  · subst hi
    simp
  · rw [if_neg hi]
    rcases Nat.lt_or_ge i l.length with hl | hl
    · rw [List.getElem?_append_left hl]
    · rw [List.getElem?_eq_none hl, List.getElem?_eq_none (by simp; omega)]

/-- `s` with the nodes of `l` allocated from index 0 on and queued, and nothing else. -/
def queuedNodes (l : List Node) (s : State) : State :=
  { s with
    node := overlay l s.node, nodeCount := BitVec.ofNat 10 l.length
    pq := (List.range l.length).map (BitVec.ofNat 10) }

/-- Every queued index is below the next free one. -/
theorem lt_ofNat_of_mem_range {n : Nat} (hn : n < 1024) :
    ∀ j ∈ (List.range n).map (BitVec.ofNat 10), j < BitVec.ofNat 10 n := by
  intro j hj
  obtain ⟨k, hk, rfl⟩ := List.mem_map.mp hj
  rw [List.mem_range] at hk
  rw [BitVec.lt_def, BitVec.toNat_ofNat, BitVec.toNat_ofNat, Nat.mod_eq_of_lt hn, Nat.mod_eq_of_lt (hk.trans hn)]
  exact hk

theorem allocQueued_queuedNodes {l : List Node} (n : Node) (s : State) (hl : l.length < 1024) :
    allocQueued n (queuedNodes l s) = queuedNodes (l ++ [n]) s := by
  have hq : insertIdx (BitVec.ofNat 10 l.length) ((List.range l.length).map (BitVec.ofNat 10)) =
      (List.range (l ++ [n]).length).map (BitVec.ofNat 10) := by
    rw [insertIdx_of_all_lt (lt_ofNat_of_mem_range hl)]
    simp [List.range_succ]
  have hc : BitVec.ofNat 10 l.length + 1 = BitVec.ofNat 10 (l ++ [n]).length := by simp [BitVec.ofNat_add]
  have hn : (overlay l s.node).setIfInBounds (BitVec.ofNat 10 l.length).toNat n = overlay (l ++ [n]) s.node := by
    rw [BitVec.toNat_ofNat, Nat.mod_eq_of_lt hl, overlay_concat]
  simp only [allocQueued, pqInsert, State.setNode, queuedNodes, hq, hc, hn]

/-- The leaf BUILD_INIT makes of byte `b` (R114). -/
def byteNode (freq : Vector Word 256) (b : Fin 256) : Node :=
  ⟨true, BitVec.ofNat 10 b.val, freq[b].setWidth 41, Config.nil, Config.nil⟩

/-- The leaves of the counted bytes, in order (R114). -/
def byteNodes (freq : Vector Word 256) : List Node :=
  ((List.finRange 256).filter fun b : Fin 256 => freq[b] ≠ 0).map (byteNode freq)

theorem length_byteNodes_le (freq : Vector Word 256) : (byteNodes freq).length ≤ 256 := by
  rw [byteNodes, List.length_map]
  exact (List.length_filter_le ..).trans (List.length_finRange ..).le

theorem leavesOf_eq (freq : Vector Word 256) : leavesOf freq =
    (if byteNodes freq = [] then [⟨true, 0, 0, Config.nil, Config.nil⟩] else byteNodes freq) ++
      [⟨true, 256, 1, Config.nil, Config.nil⟩] := rfl

/-- Two leaves at least, and one for each byte and the sentinel at most. -/
theorem length_leavesOf (freq : Vector Word 256) : 2 ≤ (leavesOf freq).length ∧ (leavesOf freq).length ≤ 257 := by
  have h := length_byteNodes_le freq
  rw [leavesOf_eq, List.length_append]
  split
  · simp
  · rename_i hne
    have := List.length_pos_iff.mpr hne
    simp only [List.length_singleton]
    omega

/-- The counts with their bytes. -/
theorem zipIdx_freq (freq : Vector Word 256) :
    freq.toList.zipIdx = (List.finRange 256).map fun b : Fin 256 => (freq[b], b.val) := by
  apply List.ext_getElem
  · simp
  · intro i h₁ h₂
    simp

/-- The leaves of a list of bytes are allocated and queued behind those of `l`. -/
theorem foldl_byteLeaf (freq : Vector Word 256) (bs : List (Fin 256)) (l : List Node) (s : State)
    (hl : l.length + bs.length < 1024) :
    (bs.map fun b : Fin 256 => (freq[b], b.val)).foldl byteLeaf (queuedNodes l s) =
      queuedNodes (l ++ (bs.filter fun b : Fin 256 => freq[b] ≠ 0).map (byteNode freq)) s := by
  induction bs generalizing l with
  | nil => simp
  | cons b bs ih =>
    rw [List.length_cons] at hl
    rw [List.map_cons, List.foldl_cons, byteLeaf]
    by_cases hb : freq[b] = 0
    · rw [if_pos hb, ih l (by omega), List.filter_cons_of_neg (by simpa using hb)]
    · rw [if_neg hb, newLeaf, allocQueued_queuedNodes _ s (by omega), ih _ (by simp; omega),
        List.filter_cons_of_pos (by simpa using hb)]
      simp [byteNode]

/-- The state BUILD_INIT's first line leaves (R114). -/
def buildCleared (s : State) : State :=
  { s with
    pqActive := false, treeValid := false, treeSrc := false, codesValid := false
    pq := [], nodeCount := 0, root := Config.nil }

theorem queuedNodes_nil (s : State) : queuedNodes [] (buildCleared s) = buildCleared s := by
  simp only [queuedNodes, overlay_nil]
  rfl

theorem byteLeaves_buildCleared (s : State) :
    byteLeaves (buildCleared s) = queuedNodes (byteNodes s.freq) (buildCleared s) := by
  have h := foldl_byteLeaf s.freq (List.finRange 256) [] (buildCleared s) (by simp)
  rw [queuedNodes_nil, ← zipIdx_freq] at h
  exact h

theorem placeholderLeaf_queuedNodes {l : List Node} (s : State) (hl : l.length < 1024) :
    placeholderLeaf (queuedNodes l s) =
      queuedNodes (if l = [] then [⟨true, 0, 0, Config.nil, Config.nil⟩] else l) s := by
  unfold placeholderLeaf
  cases l with
  | nil => exact allocQueued_queuedNodes (l := []) _ s (by simp)
  | cons n l =>
    rw [if_neg, if_neg (by simp)]
    intro h
    have := congrArg BitVec.toNat h
    rw [List.length_cons] at hl
    simp [queuedNodes] at this
    omega

/-- The state BUILD_INIT's last line leaves (R114). -/
def leavesQueued (s : State) : State := { s with leafCount := s.nodeCount.setWidth 9, pqActive := true }

/-- BUILD_INIT's body: the leaves of FREQ allocated from index 0 on and queued, ROOT is NIL, the queue is active (R114). -/
theorem buildInitBody_eq (s : State) : buildInitBody s =
    { queuedNodes (leavesOf s.freq) (buildCleared s) with
      leafCount := BitVec.ofNat 9 (leavesOf s.freq).length, pqActive := true } := by
  have hb := length_byteNodes_le s.freq
  have hlen := (length_leavesOf s.freq).2
  have h : newLeaf (BitVec.ofNat 10 Config.eofSym) 1 (placeholderLeaf (byteLeaves (buildCleared s))) =
      queuedNodes (leavesOf s.freq) (buildCleared s) := by
    rw [byteLeaves_buildCleared, placeholderLeaf_queuedNodes _ (by omega), leavesOf_eq]
    refine allocQueued_queuedNodes _ _ ?_
    split
    · simp
    · omega
  have hc : (BitVec.ofNat 10 (leavesOf s.freq).length).setWidth 9 = BitVec.ofNat 9 (leavesOf s.freq).length := by
    apply BitVec.eq_of_toNat_eq
    rw [BitVec.toNat_setWidth, BitVec.toNat_ofNat, BitVec.toNat_ofNat, Nat.mod_eq_of_lt (by omega : _ < 2 ^ 10)]
  have hq : buildInitBody s = leavesQueued (newLeaf (BitVec.ofNat 10 Config.eofSym) 1
      (placeholderLeaf (byteLeaves (buildCleared s)))) := rfl
  rw [hq, h, ← hc]
  rfl

/-! ## Merges -/

/-- `t` differs from `s` in nothing but what the builders write: the pool, the tree registers, PQ and their flags. -/
def BuilderOnly (s t : State) : Prop :=
  t = { s with
    node := t.node, root := t.root, nodeCount := t.nodeCount, leafCount := t.leafCount, pq := t.pq
    pqActive := t.pqActive, treeValid := t.treeValid, treeSrc := t.treeSrc, codesValid := t.codesValid }

theorem BuilderOnly.trans {s t u : State} (h : BuilderOnly s t) (g : BuilderOnly t u) : BuilderOnly s u := by
  unfold BuilderOnly at *
  rw [g, h]

theorem builderOnly_buildInitBody (s : State) : BuilderOnly s (buildInitBody s) := by
  rw [buildInitBody_eq]
  rfl

theorem builderOnly_latchRoot (s : State) : BuilderOnly s (latchRoot s) := by
  unfold latchRoot
  split
  · split
    · rfl
    · rename_i r t ht
      obtain ⟨-, rfl⟩ := pqExtractMin_some ht
      rfl
  · rfl

theorem builderOnly_merge (s : State) : BuilderOnly s (merge s) := by
  obtain ⟨n, c, q, h⟩ := merge_frame s
  rw [h]
  rfl

theorem builderOnly_buildMergeBody (s : State) : BuilderOnly s (buildMergeBody s) :=
  (builderOnly_merge s).trans (builderOnly_latchRoot _)

/-- What each merge keeps while the queue is active, BUILD's loop keeps (R116). -/
theorem buildLoop_keeps {P : State → Prop} (h : ∀ s, s.pqActive = true → P s → P (buildMergeBody s)) (k : Nat)
    {s : State} (hs : P s) : P (buildLoop k s) := by
  induction k generalizing s with
  | zero => exact hs
  | succ k ih =>
    unfold buildLoop
    split
    · exact ih (h s ‹_› hs)
    · exact hs

theorem builderOnly_buildLoop (k : Nat) (s : State) : BuilderOnly s (buildLoop k s) :=
  buildLoop_keeps (P := BuilderOnly s) (fun _ _ h => h.trans (builderOnly_buildMergeBody _)) k rfl

theorem builderOnly_buildBody (s : State) : BuilderOnly s (buildBody s) :=
  (builderOnly_buildInitBody s).trans (builderOnly_buildLoop _ _)

/-- An index is queued once more, or was queued already. -/
theorem length_insertIdx (i : NodeIdx) (l : List NodeIdx) :
    (insertIdx i l).length = l.length + 1 ∨ (insertIdx i l).length = l.length ∧ l ≠ [] := by
  induction l with
  | nil => exact .inl rfl
  | cons j t ih =>
    simp only [insertIdx]
    split
    · exact .inl rfl
    · split
      · exact .inr ⟨rfl, List.cons_ne_nil _ _⟩
      · simp only [List.length_cons, ne_eq, List.cons_ne_nil, not_false_eq_true, and_true]
        omega

/-- Where two nodes are queued, a merge takes two out and puts one in (R113). -/
theorem merge_of_two {s : State} (h : 2 ≤ s.pq.length) : ∃ a b, a ∈ s.pq ∧ b ∈ s.pq.erase a ∧
    merge s = allocQueued (s.mergedNode a b) { s with pq := (s.pq.erase a).erase b } := by
  unfold merge
  split
  · rename_i hn
    rw [pqExtractMin_none] at hn
    simp [hn] at h
  · rename_i a t ha
    obtain ⟨hma, rfl⟩ := pqExtractMin_some ha
    split
    · rename_i hn
      rw [pqExtractMin_none] at hn
      have := List.length_erase_of_mem hma
      rw [show s.pq.erase a = [] from hn, List.length_nil] at this
      omega
    · rename_i b u hb
      obtain ⟨hmb, rfl⟩ := pqExtractMin_some hb
      exact ⟨a, b, hma, hmb, rfl⟩

/-- A merge leaves at least one node queued. -/
theorem one_le_length_merge {s : State} (h : 2 ≤ s.pq.length) : 1 ≤ (merge s).pq.length := by
  obtain ⟨a, b, -, -, hm⟩ := merge_of_two h
  rw [hm]
  have := length_insertIdx s.nodeCount ((s.pq.erase a).erase b)
  show 1 ≤ (insertIdx s.nodeCount ((s.pq.erase a).erase b)).length
  rcases this with h | ⟨h, hne⟩
  · omega
  · rw [h]
    exact List.length_pos_iff.mpr hne

/-- With one node queued, it is taken out as the root and the tree is valid (R115). -/
theorem latchRoot_of_one {s : State} {r : NodeIdx} (h : s.pq = [r]) : latchRoot s =
    { s with pq := [], root := r, pqActive := false, treeValid := true, treeSrc := false } := by
  have he : pqExtractMin s = some (r, { s with pq := [] }) := by
    simp [pqExtractMin, State.leastKey, h]
  simp [latchRoot, h, he]

theorem latchRoot_of_more {s : State} (h : s.pq.length ≠ 1) : latchRoot s = s := if_neg h

end Sys2Proof.Machine

/-! # The invariant of the sequencer and of STATUS

`LifecycleInv` is kept by every move. While a command runs it splits into what STATUS holds (`Running`), how the table flags agree
(`FlagsAgree`), and which flags the body at hand needs; an error and a completion need the first two alone. -/

namespace Sys2Proof.Machine

/-- A command runs: STATUS and ERRINFO are clear (R26, R27, R31) and the block is out of reset. -/
structure Running (s : State) : Prop where
  phase     : s.phase ≠ .idle
  done      : s.done = false
  err       : s.err = false
  errCode   : s.errCode = .none
  errInfo   : s.errInfo = ⟨.none, 0⟩
  resetLine : s.resetLine = false

/-- The tables' flags agree with each other and with the queue (R44). -/
structure FlagsAgree (s : State) : Prop where
  oneTree  : ¬(s.pqActive = true ∧ s.treeValid = true)
  queueTwo : s.pqActive = true → 2 ≤ s.pq.length

theorem LifecycleInv.running {s : State} (h : LifecycleInv s) (hb : s.phase ≠ .idle) : Running s where
  phase := hb
  done := (h.busyClear hb).1
  err := (h.busyClear hb).2
  errCode := h.errCode.mpr (h.busyClear hb).2
  errInfo := h.errInfo (h.busyClear hb).2
  resetLine := by
    cases hr : s.resetLine with
    | false => rfl
    | true => exact absurd (h.resetIdle hr) hb

theorem LifecycleInv.flagsAgree {s : State} (h : LifecycleInv s) : FlagsAgree s := ⟨h.oneTree, h.queueTwo⟩

theorem flagsAgree_of_inactive {s : State} (h : s.pqActive = false) : FlagsAgree s :=
  ⟨by simp [h], by simp [h]⟩

/-! ## Transactions and builders -/

theorem Running.transacted {s u : State} (h : Running s) (hu : Transacted s u) : Running u := by
  rw [hu.frame]
  exact ⟨h.phase, h.done, h.err, h.errCode, h.errInfo, h.resetLine⟩

theorem FlagsAgree.transacted {s u : State} (h : FlagsAgree s) (hu : Transacted s u) : FlagsAgree u := by
  rw [hu.frame]
  exact ⟨h.oneTree, h.queueTwo⟩

theorem LifecycleInv.transacted {s u : State} (h : LifecycleInv s) (hu : Transacted s u) : LifecycleInv u := by
  rw [hu.frame]
  exact ⟨h.idleWork, h.idleTodo, h.busyClear, h.errCode, h.errInfo, h.oneTree, h.queueTwo, h.countClear, h.rdhdrClear,
    h.treeUsed, h.codesUsed, h.resetIdle⟩

theorem Running.builder {s t : State} (h : Running s) (ht : BuilderOnly s t) : Running t := by
  rw [ht]
  exact ⟨h.phase, h.done, h.err, h.errCode, h.errInfo, h.resetLine⟩

/-- BUILD_INIT queues at least two leaves. -/
theorem flagsAgree_buildInitBody (s : State) : FlagsAgree (buildInitBody s) := by
  rw [buildInitBody_eq]
  refine ⟨by simp [queuedNodes, buildCleared], fun _ => ?_⟩
  simpa [queuedNodes] using (length_leavesOf s.freq).1

/-- A merge leaves two nodes queued, or ends the build. -/
theorem flagsAgree_buildMergeBody {s : State} (hp : s.pqActive = true) (h : FlagsAgree s) :
    FlagsAgree (buildMergeBody s) := by
  have hone := one_le_length_merge (h.queueTwo hp)
  unfold buildMergeBody
  by_cases hl : (merge s).pq.length = 1
  · obtain ⟨r, hr⟩ := List.length_eq_one_iff.mp hl
    rw [latchRoot_of_one hr]
    exact flagsAgree_of_inactive rfl
  · rw [latchRoot_of_more hl]
    obtain ⟨n, c, q, hm⟩ := merge_frame s
    rw [hm] at hone hl ⊢
    exact ⟨h.oneTree, fun _ => by dsimp only at *; omega⟩

theorem flagsAgree_buildBody (s : State) : FlagsAgree (buildBody s) :=
  buildLoop_keeps (P := FlagsAgree) (fun _ hp h => flagsAgree_buildMergeBody hp h) _ (flagsAgree_buildInitBody s)

/-! ## Ends of a body -/

/-- After an error the block is IDLE with ERR and the code of the error set (R193). -/
theorem lifecycleInv_raise {s : State} (e : ErrCode) (q : PortId) (he : e ≠ .none) (h : FlagsAgree s) :
    LifecycleInv (raise e q s) := by
  obtain ⟨f, n, d, hr⟩ := raise_frame e q s
  rw [hr]
  exact ⟨by simp, fun _ => rfl, fun hb => absurd rfl hb, by simp [he], nofun, h.oneTree, h.queueTwo, nofun, nofun, nofun,
    nofun, fun _ => rfl⟩

/-- After a body the command is complete or its next phase starts (R182, R183, R192). -/
theorem lifecycleInv_phaseDone {s : State} (hr : Running s) (h : FlagsAgree s) : LifecycleInv (phaseDone s) := by
  obtain ⟨hb, hd, he, hc, hi, hl⟩ := hr
  cases ht : s.todo with
  | nil =>
    rw [phaseDone_last ht]
    exact ⟨by simp, fun _ => rfl, fun hb => absurd rfl hb, by simp [hc, he], fun _ => hi, h.oneTree, h.queueTwo, nofun,
      nofun, nofun, nofun, fun _ => rfl⟩
  | cons i rest =>
    rw [phaseDone_more ht]
    exact ⟨by simp, nofun, fun _ => ⟨hd, he⟩, by simp [hc, he], fun _ => hi, h.oneTree, h.queueTwo, nofun, nofun, nofun,
      nofun, fun hl' => by simp [hl] at hl'⟩

/-- Inside a body the flags it needs are as they should be (R44). -/
structure BodyFlags (s : State) : Prop where
  count : s.work = .countRead →
            s.freqValid = false ∧ s.pqActive = false ∧ s.treeValid = false ∧ s.codesValid = false
  rdhdr : s.work.inRdhdr = true → s.pqActive = false ∧ s.treeValid = false ∧ s.codesValid = false
  tree  : s.work.usesTree = true → s.treeValid = true
  codes : s.work.usesCodes = true → s.codesValid = true

theorem lifecycleInv_of_running {s : State} (hr : Running s) (h : FlagsAgree s) (hw : s.work ≠ .none)
    (hf : BodyFlags s) : LifecycleInv s where
  idleWork := by simp [hr.phase, hw]
  idleTodo := fun hp => absurd hp hr.phase
  busyClear := fun _ => ⟨hr.done, hr.err⟩
  errCode := by simp [hr.errCode, hr.err]
  errInfo := fun _ => hr.errInfo
  oneTree := h.oneTree
  queueTwo := h.queueTwo
  countClear := hf.count
  rdhdrClear := hf.rdhdr
  treeUsed := hf.tree
  codesUsed := hf.codes
  resetIdle := fun hl => by simp [hr.resetLine] at hl

/-- A command that runs goes on with work `w` whose flags are right. -/
theorem lifecycleInv_setWork {s : State} (w : Work) (hr : Running s) (h : FlagsAgree s) (hw : w ≠ .none)
    (hf : BodyFlags { s with work := w }) : LifecycleInv { s with work := w } :=
  lifecycleInv_of_running ⟨hr.phase, hr.done, hr.err, hr.errCode, hr.errInfo, hr.resetLine⟩ ⟨h.oneTree, h.queueTwo⟩ hw hf

/-! ## The bodies -/

theorem usesTree_of_inWrhdr {w : Work} (h : w.inWrhdr = true) : w.usesTree = true := by
  cases w <;> simp_all [Work.inWrhdr, Work.usesTree]

/-- The serializer's works are in no other body. -/
theorem bodyFlags_of_inWrhdr {s : State} (hw : s.work.inWrhdr = true) (h : s.treeValid = true) : BodyFlags s := by
  constructor <;> cases hs : s.work <;> simp_all [Work.inWrhdr, Work.inRdhdr, Work.usesCodes]

/-- The encoder's works are in no other body. -/
theorem bodyFlags_of_usesCodes {s : State} (hw : s.work.usesCodes = true) (h : s.codesValid = true) : BodyFlags s := by
  constructor <;> cases hs : s.work <;> simp_all [Work.usesTree, Work.inRdhdr, Work.usesCodes]

/-- The deserializer's works are in no other body. -/
theorem bodyFlags_of_inRdhdr {s : State} (hw : s.work.inRdhdr = true)
    (h : s.pqActive = false ∧ s.treeValid = false ∧ s.codesValid = false) : BodyFlags s := by
  constructor <;> cases hs : s.work <;> simp_all [Work.usesTree, Work.inRdhdr, Work.usesCodes]

theorem work_ne_none_of_inWrhdr {w : Work} (h : w.inWrhdr = true) : w ≠ .none := by
  rintro rfl
  cases h

theorem work_ne_none_of_usesCodes {w : Work} (h : w.usesCodes = true) : w ≠ .none := by
  rintro rfl
  cases h

theorem bodyFlags_decodeBit {s : State} (p : NodeIdx) (h : s.treeValid = true) :
    BodyFlags { s with work := .decodeBit p } := ⟨nofun, nofun, fun _ => h, nofun⟩

/-- A body of the deserializer keeps the flags it has cleared, whatever it does to the pool. -/
theorem lifecycleInv_inRdhdr {s : State} (hr : Running s) (hw : s.work.inRdhdr = true)
    (h : s.pqActive = false ∧ s.treeValid = false ∧ s.codesValid = false) : LifecycleInv s := by
  refine lifecycleInv_of_running hr (flagsAgree_of_inactive h.1) ?_ (bodyFlags_of_inRdhdr hw h)
  intro hn
  rw [hn] at hw
  cases hw

/-- A closed subtree leaves the deserializer at a token, or ends RDHDR's body with a valid tree (R142, R143). -/
theorem lifecycleInv_closeSubtree (r : NodeIdx) (st : List Frame) {s : State} (hr : Running s)
    (h : s.pqActive = false ∧ s.treeValid = false ∧ s.codesValid = false) : LifecycleInv (closeSubtree r st s) := by
  induction st generalizing r s with
  | nil =>
    exact lifecycleInv_phaseDone ⟨hr.phase, hr.done, hr.err, hr.errCode, hr.errInfo, hr.resetLine⟩
      (flagsAgree_of_inactive h.1)
  | cons f st ih =>
    obtain ⟨i, _ | l⟩ := f
    · exact lifecycleInv_inRdhdr ⟨hr.phase, hr.done, hr.err, hr.errCode, hr.errInfo, hr.resetLine⟩ rfl h
    · exact ih i ⟨hr.phase, hr.done, hr.err, hr.errCode, hr.errInfo, hr.resetLine⟩ h

/-- The decode walk goes on, or a byte is to be written, or the sentinel ends DECODE's body (R163). -/
theorem lifecycleInv_arrive (p : NodeIdx) {s : State} (hr : Running s) (h : FlagsAgree s) (ht : s.treeValid = true) :
    LifecycleInv (arrive p s) := by
  unfold arrive
  dsimp only
  split
  · exact lifecycleInv_setWork _ hr h nofun (bodyFlags_decodeBit p ht)
  · split
    · exact lifecycleInv_phaseDone ⟨hr.phase, hr.done, hr.err, hr.errCode, hr.errInfo, hr.resetLine⟩
        ⟨h.oneTree, h.queueTwo⟩
    · exact lifecycleInv_setWork _ hr h nofun ⟨nofun, nofun, fun _ => ht, nofun⟩

/-- A body that starts checks the flag of the table it uses, and clears the flags it makes stale (R44). -/
theorem lifecycleInv_startBody {s : State} (i : Instr) (hw : s.work = .start i) (hs : LifecycleInv s)
    (hb : s.phase ≠ .idle) : LifecycleInv (startBody i s) := by
  have hr := hs.running hb
  have h := hs.flagsAgree
  have hinit := builderOnly_buildInitBody s
  cases i with
  | nop => exact lifecycleInv_phaseDone hr h
  | clear =>
    exact lifecycleInv_phaseDone ⟨hr.phase, hr.done, hr.err, hr.errCode, hr.errInfo, hr.resetLine⟩
      (flagsAgree_of_inactive rfl)
  | count =>
    exact lifecycleInv_of_running ⟨hr.phase, hr.done, hr.err, hr.errCode, hr.errInfo, hr.resetLine⟩
      (flagsAgree_of_inactive rfl) nofun ⟨fun _ => ⟨rfl, rfl, rfl, rfl⟩, nofun, nofun, nofun⟩
  | buildInit =>
    rw [startBody, buildInitStart]
    split
    · exact lifecycleInv_phaseDone (hr.builder hinit) (flagsAgree_buildInitBody s)
    · exact lifecycleInv_raise _ _ nofun h
  | buildMerge =>
    rw [startBody, buildMergeStart]
    split
    · exact lifecycleInv_phaseDone (hr.builder (builderOnly_buildMergeBody s)) (flagsAgree_buildMergeBody ‹_› h)
    · exact lifecycleInv_raise _ _ nofun h
  | build =>
    rw [startBody, buildStart]
    split
    · exact lifecycleInv_phaseDone (hr.builder (builderOnly_buildBody s)) (flagsAgree_buildBody s)
    · exact lifecycleInv_raise _ _ nofun h
  | gencodes =>
    rw [startBody, gencodesStart]
    split
    · exact lifecycleInv_raise _ _ nofun h
    · split
      · exact lifecycleInv_raise _ _ nofun h
      · exact lifecycleInv_phaseDone ⟨hr.phase, hr.done, hr.err, hr.errCode, hr.errInfo, hr.resetLine⟩
          ⟨h.oneTree, h.queueTwo⟩
  | wrhdr =>
    rw [startBody, wrhdrStart]
    split
    · exact lifecycleInv_setWork _ hr h nofun (bodyFlags_of_inWrhdr rfl ‹_›)
    · exact lifecycleInv_raise _ _ nofun h
  | encode =>
    rw [startBody, encodeStart]
    split
    · exact lifecycleInv_setWork _ hr h nofun (bodyFlags_of_usesCodes rfl ‹_›)
    · exact lifecycleInv_raise _ _ nofun h
  | compress =>
    exact lifecycleInv_of_running ⟨nofun, hr.done, hr.err, hr.errCode, hr.errInfo, hr.resetLine⟩ ⟨h.oneTree, h.queueTwo⟩
      nofun ⟨nofun, nofun, nofun, nofun⟩
  | rdhdr =>
    exact lifecycleInv_inRdhdr ⟨hr.phase, hr.done, hr.err, hr.errCode, hr.errInfo, hr.resetLine⟩ rfl ⟨rfl, rfl, rfl⟩
  | decode =>
    rw [startBody, decodeStart]
    split
    · exact lifecycleInv_raise _ _ nofun h
    · rename_i ht
      split
      · exact lifecycleInv_raise _ _ nofun h
      · exact lifecycleInv_setWork _ hr h nofun (bodyFlags_decodeBit _ (by simpa using ht))
  | decompress =>
    exact lifecycleInv_of_running ⟨nofun, hr.done, hr.err, hr.errCode, hr.errInfo, hr.resetLine⟩ ⟨h.oneTree, h.queueTwo⟩
      nofun ⟨nofun, nofun, nofun, nofun⟩
  | magic => exact hs
  | internal => exact hs
  | leaf v => exact hs

/-! ## Every move -/

theorem LifecycleInv.worked {s t : State} (hw : Worked s t) (hs : LifecycleInv s) (hb : s.phase ≠ .idle) :
    LifecycleInv t := by
  induction hw with
  | wait hu => exact hs.transacted hu
  | error e q he hu => exact lifecycleInv_raise e q he (hs.flagsAgree.transacted hu)
  | finish hu => exact lifecycleInv_phaseDone ((hs.running hb).transacted hu) (hs.flagsAgree.transacted hu)
  | start i hw => exact lifecycleInv_startBody i hw hs hb
  | countByte f hw hu =>
    have h := hs.transacted hu
    exact ⟨h.idleWork, h.idleTodo, h.busyClear, h.errCode, h.errInfo, h.oneTree, h.queueTwo, h.countClear, h.rdhdrClear,
      h.treeUsed, h.codesUsed, h.resetIdle⟩
  | countEnd hw hu =>
    have hr := (hs.running hb).transacted hu
    have h := hs.flagsAgree.transacted hu
    exact lifecycleInv_phaseDone ⟨hr.phase, hr.done, hr.err, hr.errCode, hr.errInfo, hr.resetLine⟩ ⟨h.oneTree, h.queueTwo⟩
  | serialize w hw hw' hu =>
    have ht := hs.treeUsed (usesTree_of_inWrhdr hw)
    refine lifecycleInv_setWork w ((hs.running hb).transacted hu) (hs.flagsAgree.transacted hu)
      (work_ne_none_of_inWrhdr hw') (bodyFlags_of_inWrhdr hw' ?_)
    rw [hu.frame]
    exact ht
  | encode w hw hw' hu =>
    have hc := hs.codesUsed hw
    refine lifecycleInv_setWork w ((hs.running hb).transacted hu) (hs.flagsAgree.transacted hu)
      (work_ne_none_of_usesCodes hw') (bodyFlags_of_usesCodes hw' ?_)
    rw [hu.frame]
    exact hc
  | magic hw hu =>
    have hr := (hs.running hb).transacted hu
    have hc := hs.rdhdrClear (by rw [hw]; rfl)
    rw [hu.frame] at hr ⊢
    exact lifecycleInv_inRdhdr ⟨hr.phase, hr.done, hr.err, hr.errCode, hr.errInfo, hr.resetLine⟩ rfl hc
  | internal st hw _ hu =>
    have hr := (hs.running hb).transacted hu
    have hc := hs.rdhdrClear (by rw [hw]; rfl)
    rw [hu.frame] at hr ⊢
    exact lifecycleInv_inRdhdr ⟨hr.phase, hr.done, hr.err, hr.errCode, hr.errInfo, hr.resetLine⟩ rfl hc
  | leafFlag st hw _ hu _ ih =>
    have hr := (hs.running hb).transacted hu
    have hc := hs.rdhdrClear (by rw [hw]; rfl)
    rw [hu.frame] at hr ih
    exact ih (lifecycleInv_inRdhdr ⟨hr.phase, hr.done, hr.err, hr.errCode, hr.errInfo, hr.resetLine⟩ rfl hc) hr.phase
  | leafValue v i st hw hu =>
    have hr := (hs.running hb).transacted hu
    have hc := hs.rdhdrClear (by rw [hw]; rfl)
    rw [hu.frame] at hr ⊢
    exact lifecycleInv_closeSubtree i st ⟨hr.phase, hr.done, hr.err, hr.errCode, hr.errInfo, hr.resetLine⟩ hc
  | walk p bit hw hu =>
    have ht := hs.treeUsed (by rw [hw]; rfl)
    refine lifecycleInv_arrive _ ((hs.running hb).transacted hu) (hs.flagsAgree.transacted hu) ?_
    rw [hu.frame]
    exact ht
  | byte v hw hu =>
    have ht := hs.treeUsed (by rw [hw]; rfl)
    refine lifecycleInv_setWork _ ((hs.running hb).transacted hu) (hs.flagsAgree.transacted hu) nofun
      (bodyFlags_decodeBit _ ?_)
    rw [hu.frame]
    exact ht

/-- Acceptance clears STATUS and ERRINFO and starts the body (R191). -/
theorem lifecycleInv_accept {s : State} (w : Word) (i : Instr) (hl : s.resetLine = false) (h : FlagsAgree s) :
    LifecycleInv (accept w (.start i) s) :=
  lifecycleInv_of_running ⟨nofun, rfl, rfl, rfl, rfl, hl⟩ ⟨h.oneTree, h.queueTwo⟩ nofun ⟨nofun, nofun, nofun, nofun⟩

/-- Clearing DONE and ERR, ERR with ERRCODE and ERRINFO, keeps the invariant, while BUSY too (R197). -/
theorem LifecycleInv.acknowledge {s : State} (h : LifecycleInv s) (w : Word) : LifecycleInv (acknowledge w s) where
  idleWork := h.idleWork
  idleTodo := h.idleTodo
  busyClear := fun hb => by simp [h.busyClear hb]
  errCode := by
    cases hw : w[2] with
    | true => simp [hw]
    | false => simpa [hw] using h.errCode
  errInfo := by
    cases hw : w[2] with
    | true => simp [hw]
    | false => simpa [hw] using h.errInfo
  oneTree := h.oneTree
  queueTwo := h.queueTwo
  countClear := h.countClear
  rdhdrClear := h.rdhdrClear
  treeUsed := h.treeUsed
  codesUsed := h.codesUsed
  resetIdle := h.resetIdle

/-- A command abandoned by reset leaves STATUS as it was (R221). -/
theorem LifecycleInv.assertReset {s : State} (h : LifecycleInv s) : LifecycleInv (assertReset s) := by
  unfold Machine.assertReset
  split
  · exact ⟨h.idleWork, h.idleTodo, h.busyClear, h.errCode, h.errInfo, h.oneTree, h.queueTwo, h.countClear, h.rdhdrClear,
      h.treeUsed, h.codesUsed, fun _ => ‹_›⟩
  · exact ⟨by simp, fun _ => rfl, fun hb => absurd rfl hb, h.errCode, h.errInfo, h.oneTree, h.queueTwo, nofun, nofun,
      nofun, nofun, fun _ => rfl⟩

/-- Registers at their reset values meet the invariant (R46). -/
theorem lifecycleInv_resetRegisters (s : State) : LifecycleInv (resetRegisters s) where
  idleWork := by simp [resetRegisters, State.reset]
  idleTodo := fun _ => rfl
  busyClear := fun hb => absurd rfl hb
  errCode := by simp [resetRegisters, State.reset]
  errInfo := fun _ => rfl
  oneTree := nofun
  queueTwo := nofun
  countClear := nofun
  rdhdrClear := nofun
  treeUsed := nofun
  codesUsed := nofun
  resetIdle := fun _ => rfl

theorem LifecycleInv.releaseReset {s : State} (h : LifecycleInv s) : LifecycleInv (releaseReset s) := by
  unfold Machine.releaseReset
  split
  · have g := lifecycleInv_resetRegisters s
    exact ⟨g.idleWork, g.idleTodo, g.busyClear, g.errCode, g.errInfo, g.oneTree, g.queueTwo, g.countClear, g.rdhdrClear,
      g.treeUsed, g.codesUsed, g.resetIdle⟩
  · exact h

theorem LifecycleInv.outside {s t : State} (h : LifecycleInv s) (ht : OutsideOnly s t) : LifecycleInv t := by
  rw [ht]
  exact ⟨h.idleWork, h.idleTodo, h.busyClear, h.errCode, h.errInfo, h.oneTree, h.queueTwo, h.countClear, h.rdhdrClear,
    h.treeUsed, h.codesUsed, h.resetIdle⟩

theorem lifecycleInv_keptByMoves : KeptByMoves LifecycleInv where
  work := fun s hb hs => hs.worked (tick_worked s) hb
  accepted := fun _ _ _ hl hs => lifecycleInv_accept _ _ hl hs.flagsAgree
  illegal := fun _ _ _ hs => lifecycleInv_raise _ _ nofun ⟨hs.oneTree, hs.queueTwo⟩
  acknowledged := fun w _ hs => hs.acknowledge w
  outside := fun _ _ ht hs => hs.outside ht
  abandoned := fun _ hs => hs.assertReset
  released := fun _ hs => hs.releaseReset

/-- Settles O56: every move keeps the invariant (`lifecycleInv_keptByMoves`). -/
theorem stepKeepsLifecycleInv : Obligations.StepKeepsLifecycleInv :=
  fun _ _ hs h => lifecycleInv_keptByMoves.step h hs

end Sys2Proof.Machine

/-! # Trees and forests in the node pool

What `IsTree`, `AllAllocated` and `HoldsForest` say when the pool changes, and the builder's merge as an operation on the forest it
holds (R113). -/

namespace Sys2Proof.Machine

/-! ## Trees -/

/-- A full tree has one internal node less than leaves. -/
theorem HTree.size_add_one (t : HTree) : t.size + 1 = 2 * t.leaves := by
  induction t with
  | leaf v => rfl
  | node l r hl hr => simp only [HTree.size, HTree.leaves]; omega

theorem IsTree.length_ids {pool : NodeIdx → Node} {i : NodeIdx} {t : HTree} {ids : List NodeIdx}
    (h : IsTree pool i t ids) : ids.length = t.size := by
  induction h with
  | leaf => rfl
  | node i l r il ir _ _ _ hl hr => simp only [List.length_cons, List.length_append, hl, hr, HTree.size]

theorem IsTree.root_mem {pool : NodeIdx → Node} {i : NodeIdx} {t : HTree} {ids : List NodeIdx}
    (h : IsTree pool i t ids) : i ∈ ids := by
  cases h <;> exact List.mem_cons_self

/-- A tree is in the pool as long as its own entries are as they were. -/
theorem IsTree.congr {pool pool' : NodeIdx → Node} {i : NodeIdx} {t : HTree} {ids : List NodeIdx}
    (h : IsTree pool i t ids) (he : ∀ j ∈ ids, pool' j = pool j) : IsTree pool' i t ids := by
  induction h with
  | leaf i v hl hv =>
    have hi := he i (by simp)
    exact .leaf i v (by rw [hi, hl]) (by rw [hi, hv])
  | node i l r il ir hn _ _ ihl ihr =>
    have hi := he i (by simp)
    rw [← hi] at hn
    refine .node i l r il ir hn ?_ ?_
    · rw [hi]
      exact ihl fun j hj => he j (by simp [hj])
    · rw [hi]
      exact ihr fun j hj => he j (by simp [hj])

/-- The children of an internal node of a tree are nodes of the tree. -/
theorem IsTree.children_mem {pool : NodeIdx → Node} {i p : NodeIdx} {t : HTree} {ids : List NodeIdx}
    (h : IsTree pool i t ids) (hp : p ∈ ids) (hn : (pool p).isLeaf = false) :
    (pool p).left ∈ ids ∧ (pool p).right ∈ ids := by
  induction h with
  | leaf i v hl _ =>
    obtain rfl := List.mem_singleton.mp hp
    simp [hl] at hn
  | node i l r il ir _ htl htr ihl ihr =>
    have hml := htl.root_mem
    have hmr := htr.root_mem
    simp only [List.mem_cons, List.mem_append] at hp ⊢
    rcases hp with rfl | hp | hp
    · exact ⟨.inr (.inl hml), .inr (.inr hmr)⟩
    · exact ⟨.inr (.inl (ihl hp).1), .inr (.inl (ihl hp).2)⟩
    · exact ⟨.inr (.inr (ihr hp).1), .inr (.inr (ihr hp).2)⟩

/-- A tree with an internal node has an internal root. -/
theorem IsTree.root_internal {pool : NodeIdx → Node} {i p : NodeIdx} {t : HTree} {ids : List NodeIdx}
    (h : IsTree pool i t ids) (hp : p ∈ ids) (hn : (pool p).isLeaf = false) : (pool i).isLeaf = false := by
  cases h with
  | leaf _ _ hl _ =>
    obtain rfl := List.mem_singleton.mp hp
    exact hn
  | node _ _ _ _ _ hi _ _ => exact hi

/-! ## Allocated entries -/

/-- Which entries are allocated does not depend on their order. -/
theorem AllAllocated.perm {s : State} {ids ids' : List NodeIdx} (h : AllAllocated s ids) (hp : ids.Perm ids') :
    AllAllocated s ids' := by
  obtain ⟨hn, hl, hlt, hc⟩ := h
  exact ⟨hp.nodup_iff.mp hn, hp.length_eq ▸ hl, fun i hi => hlt i (hp.mem_iff.mpr hi), hc⟩

/-- A counter of ten bits below the pool's capacity does not wrap. -/
theorem toNat_nodeCount_add_one {c : BitVec 10} (h : c.toNat < 513) : (c + 1).toNat = c.toNat + 1 := by
  rw [BitVec.toNat_add, Nat.mod_eq_of_lt]
  · rfl
  · have : (1 : BitVec 10).toNat = 1 := rfl
    omega

/-- The next free entry is not allocated yet. -/
theorem AllAllocated.next_not_mem {s : State} {ids : List NodeIdx} (h : AllAllocated s ids) : s.nodeCount ∉ ids :=
  fun hm => Nat.lt_irrefl _ (h.2.2.1 _ hm)

/-- The next free entry is allocated. -/
theorem AllAllocated.next {s t : State} {ids : List NodeIdx} (h : AllAllocated s ids) (hc : s.nodeCount.toNat < 513)
    (ht : t.nodeCount = s.nodeCount + 1) : AllAllocated t (s.nodeCount :: ids) := by
  have hnext := h.next_not_mem
  have hadd := toNat_nodeCount_add_one hc
  obtain ⟨hn, hl, hlt, -⟩ := h
  refine ⟨List.nodup_cons.mpr ⟨hnext, hn⟩, by rw [List.length_cons, ht, hadd, hl], fun i hi => ?_, by rw [ht, hadd]; exact hc⟩
  rw [ht, hadd]
  rcases List.mem_cons.mp hi with rfl | hi
  · exact Nat.lt_succ_self _
  · exact Nat.lt_succ_of_lt (hlt i hi)

/-- Every allocated entry is in the pool. -/
theorem AllAllocated.lt_cap {s : State} {ids : List NodeIdx} (h : AllAllocated s ids) {i : NodeIdx} (hi : i ∈ ids) :
    i.toNat < 513 :=
  Nat.lt_of_lt_of_le (h.2.2.1 i hi) h.2.2.2

/-! ## Forests -/

/-- The queued nodes are the roots of these disjoint trees, given with their roots and in any order: `HoldsForest` and the queue's form,
free of the queue's order. -/
structure Forest (s : State) (forest : List (NodeIdx × HTree × List NodeIdx)) : Prop where
  trees  : ∀ p ∈ forest, IsTree s.nodeAt p.1 p.2.1 p.2.2
  roots  : (forest.map Prod.fst).Perm s.pq
  alloc  : AllAllocated s (forest.flatMap fun p => p.2.2)
  leafs  : s.leafCount.toNat = (forest.map fun p => p.2.1.leaves).sum
  bound  : s.leafCount.toNat ≤ 257
  sorted : s.pq.Pairwise (· < ·)

theorem Forest.perm {s : State} {f g : List (NodeIdx × HTree × List NodeIdx)} (h : Forest s f) (hp : f.Perm g) :
    Forest s g where
  trees := fun p hm => h.trees p (hp.mem_iff.mpr hm)
  roots := (hp.map _).symm.trans h.roots
  alloc := h.alloc.perm (hp.flatMap_right _)
  leafs := h.leafs.trans (hp.map _).sum_eq
  bound := h.bound
  sorted := h.sorted

theorem exists_forest {s : State} (h : HoldsForest s) (hq : s.pq.Pairwise (· < ·)) : ∃ f, Forest s f := by
  obtain ⟨forest, htrees, halloc, hleafs, hbound⟩ := h
  have hlen := htrees.length_eq
  have hsnd : (s.pq.zip forest).map Prod.snd = forest := List.map_snd_zip hlen.ge
  refine ⟨s.pq.zip forest, fun p hp => ?_, ?_, ?_, ?_, hbound, hq⟩
  · exact (List.forall₂_iff_zip.mp htrees).2 hp
  · rw [List.map_fst_zip hlen.le]
  · have : (s.pq.zip forest).flatMap (fun p => p.2.2) = (forest.map Prod.snd).flatten := by
      conv_rhs => rw [← hsnd, List.map_map]
      rw [List.flatMap_def]
      rfl
    rw [this]
    exact halloc
  · conv at hleafs => rw [← hsnd, List.map_map]
    exact hleafs

theorem Forest.holdsForest {s : State} {f : List (NodeIdx × HTree × List NodeIdx)} (h : Forest s f) :
    HoldsForest s := by
  have htrees : List.Forall₂ (fun i p => IsTree s.nodeAt i p.1 p.2) (f.map Prod.fst) (f.map Prod.snd) := by
    rw [List.forall₂_map_left_iff, List.forall₂_map_right_iff, List.forall₂_same]
    exact fun p hp => h.trees p hp
  obtain ⟨forest, hf, hp⟩ := List.perm_comp_forall₂ h.roots.symm htrees
  refine ⟨forest, hf, h.alloc.perm ?_, h.leafs.trans ?_, h.bound⟩
  · have := (hp.map Prod.snd).symm.flatten
    rwa [List.map_map] at this
  · have := (hp.map fun p => p.1.leaves).symm.sum_eq
    rwa [List.map_map] at this

/-- A forest of full trees has two nodes less than twice its leaves for every two trees. -/
theorem Forest.nodeCount_add {s : State} {f : List (NodeIdx × HTree × List NodeIdx)} (h : Forest s f) :
    s.nodeCount.toNat + s.pq.length = 2 * s.leafCount.toNat := by
  have gen : ∀ g : List (NodeIdx × HTree × List NodeIdx), (∀ p ∈ g, IsTree s.nodeAt p.1 p.2.1 p.2.2) →
      (g.flatMap fun p => p.2.2).length + g.length = 2 * (g.map fun p => p.2.1.leaves).sum := by
    intro g hg
    induction g with
    | nil => rfl
    | cons p g ih =>
      have hp := (hg p (by simp)).length_ids
      have hs := p.2.1.size_add_one
      have := ih fun q hq => hg q (by simp [hq])
      simp only [List.flatMap_cons, List.length_append, List.length_cons, List.map_cons, List.sum_cons]
      omega
  have hl := h.roots.length_eq
  rw [List.length_map] at hl
  rw [h.leafs, ← gen f h.trees, hl, h.alloc.2.1]

/-- Every queued node is allocated. -/
theorem Forest.lt_of_queued {s : State} {f : List (NodeIdx × HTree × List NodeIdx)} (h : Forest s f) {i : NodeIdx}
    (hi : i ∈ s.pq) : i < s.nodeCount := by
  obtain ⟨p, hp, rfl⟩ := List.mem_map.mp (h.roots.mem_iff.mpr hi)
  exact h.alloc.2.2.1 _ (List.mem_flatMap.mpr ⟨p, hp, (h.trees p hp).root_mem⟩)

/-- A queued node's tree can be put in front. -/
theorem exists_front {f : List (NodeIdx × HTree × List NodeIdx)} {q : List NodeIdx}
    (hr : (f.map Prod.fst).Perm q) {i : NodeIdx} (hi : i ∈ q) : ∃ t ids g,
    f.Perm ((i, t, ids) :: g) ∧ (g.map Prod.fst).Perm (q.erase i) := by
  obtain ⟨⟨j, t, ids⟩, hp, rfl⟩ := List.mem_map.mp (hr.mem_iff.mpr hi)
  have hg := List.perm_cons_erase hp
  refine ⟨t, ids, _, hg, ?_⟩
  exact (List.cons_perm_iff_perm_erase.mp ((hg.map Prod.fst).symm.trans hr)).2

/-- A merge of a forest of two trees or more (R113): two of its trees become the children of the next pool entry, which is queued last;
no other entry changes. -/
theorem Forest.merge {s : State} {f : List (NodeIdx × HTree × List NodeIdx)} (h : Forest s f)
    (h2 : 2 ≤ s.pq.length) : ∃ a ta ia b tb ib g,
    f.Perm ((a, ta, ia) :: (b, tb, ib) :: g) ∧
    (merge s).nodeAt s.nodeCount = s.mergedNode a b ∧
    (∀ i, i ≠ s.nodeCount → (merge s).nodeAt i = s.nodeAt i) ∧
    (merge s).nodeCount.toNat = s.nodeCount.toNat + 1 ∧
    (merge s).pq = (s.pq.erase a).erase b ++ [s.nodeCount] ∧
    Forest (merge s) ((s.nodeCount, .node ta tb, s.nodeCount :: (ia ++ ib)) :: g) := by
  obtain ⟨a, b, ha, hb, hm⟩ := merge_of_two h2
  obtain ⟨ta, ia, f', hf', hr'⟩ := exists_front h.roots ha
  obtain ⟨tb, ib, g, hg, hr⟩ := exists_front hr' hb
  have hfg : f.Perm ((a, ta, ia) :: (b, tb, ib) :: g) := hf'.trans (hg.cons _)
  have F := h.perm hfg
  have hcount := h.nodeCount_add
  have hbound := h.bound
  have hc : s.nodeCount.toNat < 513 := by omega
  have hlt : ∀ i ∈ (s.pq.erase a).erase b, i < s.nodeCount := fun i hi =>
    h.lt_of_queued (List.mem_of_mem_erase (List.mem_of_mem_erase hi))
  have hpq : (Machine.merge s).pq = (s.pq.erase a).erase b ++ [s.nodeCount] := by
    rw [hm]
    exact insertIdx_of_all_lt hlt
  have hself : (Machine.merge s).nodeAt s.nodeCount = s.mergedNode a b := by
    rw [hm]
    exact nodeAt_setNode_self s _ _ hc
  have hne : ∀ i, i ≠ s.nodeCount → (Machine.merge s).nodeAt i = s.nodeAt i := by
    intro i hi
    rw [hm]
    exact nodeAt_setNode_ne s _ hi.symm
  have hn : (Machine.merge s).nodeCount = s.nodeCount + 1 := by rw [hm]; rfl
  have hl : (Machine.merge s).leafCount = s.leafCount := by rw [hm]; rfl
  have hkeep : ∀ p ∈ (a, ta, ia) :: (b, tb, ib) :: g, IsTree (Machine.merge s).nodeAt p.1 p.2.1 p.2.2 := by
    intro p hp
    refine (F.trees p hp).congr fun j hj => hne j ?_
    rintro rfl
    exact F.alloc.next_not_mem (List.mem_flatMap.mpr ⟨p, hp, hj⟩)
  refine ⟨a, ta, ia, b, tb, ib, g, hfg, hself, hne, by rw [hn, toNat_nodeCount_add_one hc], hpq, ?_, ?_, ?_, ?_, ?_, ?_⟩
  · intro p hp
    rcases List.mem_cons.mp hp with rfl | hp
    · refine .node _ _ _ _ _ (by rw [hself]; rfl) ?_ ?_
      · rw [hself]
        exact hkeep (a, ta, ia) (by simp)
      · rw [hself]
        exact hkeep (b, tb, ib) (by simp)
    · exact hkeep p (by simp [hp])
  · rw [hpq]
    exact (hr.cons _).trans (List.perm_append_singleton _ _).symm
  · have := F.alloc.next hc hn
    simpa using this
  · rw [hl, F.leafs]
    simp [HTree.leaves, Nat.add_assoc]
  · rw [hl]
    exact h.bound
  · exact merge_pairwise h.sorted

/-- A forest of one tree, its root taken out of the queue, is a valid tree (R39, R115). -/
theorem Forest.holdsTree {s : State} {r : NodeIdx} {f : List (NodeIdx × HTree × List NodeIdx)} (h : Forest s f)
    (hq : s.pq = [r]) : ∃ p, f = [p] ∧ HoldsTree (latchRoot s) p.2.1 := by
  obtain ⟨p, rfl, hp⟩ := List.map_eq_singleton_iff.mp (List.perm_singleton.mp (hq ▸ h.roots))
  have ht := h.trees p (by simp)
  have hl := h.leafs
  obtain ⟨hn, hlen, hlt, hc⟩ := h.alloc
  rw [hp] at ht
  rw [latchRoot_of_one hq]
  simp only [List.flatMap_cons, List.flatMap_nil, List.append_nil] at hn hlen hlt
  exact ⟨p, rfl, rfl, ⟨p.2.2, ht, hn, hlen, hlt⟩, hc, by simpa using hl⟩

/-- The trees a list of nodes makes from index 0 on, a leaf each. -/
def leafForest (l : List Node) : List (NodeIdx × HTree × List NodeIdx) :=
  l.zipIdx.map fun c => (BitVec.ofNat 10 c.2, .leaf c.1.value, [BitVec.ofNat 10 c.2])

theorem roots_leafForest (l : List Node) :
    (leafForest l).map Prod.fst = (List.range l.length).map (BitVec.ofNat 10) := by
  rw [leafForest, List.map_map, List.range_eq_range', ← List.zipIdx_map_snd 0 l, List.map_map]
  rfl

theorem ids_leafForest (l : List Node) :
    ((leafForest l).flatMap fun p => p.2.2) = (List.range l.length).map (BitVec.ofNat 10) := by
  rw [← roots_leafForest, leafForest, List.flatMap_map, List.map_map]
  exact (List.map_eq_flatMap ..).symm

theorem leaves_leafForest (l : List Node) : ((leafForest l).map fun p => p.2.1.leaves).sum = l.length := by
  simp [leafForest, HTree.leaves, Function.comp_def]

/-- The first indices of the pool, as numbers. -/
theorem toNat_of_mem_indices {n : Nat} (hn : n < 1024) {i : NodeIdx}
    (hi : i ∈ (List.range n).map (BitVec.ofNat 10)) : i.toNat < n := by
  obtain ⟨k, hk, rfl⟩ := List.mem_map.mp hi
  rw [List.mem_range] at hk
  rwa [BitVec.toNat_ofNat, Nat.mod_eq_of_lt (hk.trans hn)]

theorem sorted_indices {n : Nat} (hn : n < 1024) : ((List.range n).map (BitVec.ofNat 10)).Pairwise (· < ·) := by
  rw [List.pairwise_map]
  refine List.pairwise_lt_range.imp_of_mem fun {a b} ha hb hab => ?_
  rw [List.mem_range] at ha hb
  rw [BitVec.lt_def, BitVec.toNat_ofNat, BitVec.toNat_ofNat, Nat.mod_eq_of_lt (ha.trans hn), Nat.mod_eq_of_lt (hb.trans hn)]
  exact hab

/-- An entry of the pool that is replaced. -/
theorem nodeAt_overlay {s : State} {l : List Node} {v : Vector Node 513} (hs : s.node = overlay l v) {k : Nat}
    (hk : k < l.length) (hl : l.length ≤ 513) : s.nodeAt (BitVec.ofNat 10 k) = l[k] := by
  have hn : (BitVec.ofNat 10 k).toNat = k := by rw [BitVec.toNat_ofNat, Nat.mod_eq_of_lt (by omega)]
  rw [nodeAt_of_lt _ _ (by omega)]
  simp only [hs, hn, overlay_getElem]
  simp [hk]

theorem isLeaf_of_mem_leavesOf {freq : Vector Word 256} {n : Node} (h : n ∈ leavesOf freq) : n.isLeaf = true := by
  rw [leavesOf_eq, List.mem_append, List.mem_singleton] at h
  rcases h with h | rfl
  · split at h
    · rw [List.mem_singleton] at h
      rw [h]
    · obtain ⟨b, -, rfl⟩ := List.mem_map.mp h
      rfl
  · rfl

theorem buildInitBody_node (s : State) : (buildInitBody s).node = overlay (leavesOf s.freq) s.node := by
  rw [buildInitBody_eq]
  rfl

theorem buildInitBody_pq (s : State) :
    (buildInitBody s).pq = (List.range (leavesOf s.freq).length).map (BitVec.ofNat 10) := by
  rw [buildInitBody_eq]
  rfl

theorem toNat_buildInitBody_nodeCount (s : State) :
    (buildInitBody s).nodeCount.toNat = (leavesOf s.freq).length := by
  have hlen := (length_leavesOf s.freq).2
  rw [buildInitBody_eq]
  exact Nat.mod_eq_of_lt (by omega)

theorem toNat_buildInitBody_leafCount (s : State) :
    (buildInitBody s).leafCount.toNat = (leavesOf s.freq).length := by
  have hlen := (length_leavesOf s.freq).2
  rw [buildInitBody_eq]
  exact Nat.mod_eq_of_lt (by omega)

/-- The leaves stand in the pool in order, from index 0 on. -/
theorem nodeAt_buildInitBody (s : State) {k : Nat} (hk : k < (leavesOf s.freq).length) :
    (buildInitBody s).nodeAt (BitVec.ofNat 10 k) = (leavesOf s.freq)[k] := by
  have hlen := (length_leavesOf s.freq).2
  exact nodeAt_overlay (buildInitBody_node s) hk (by omega)

/-- BUILD_INIT's body leaves a forest of the leaves (R114, R119). -/
theorem forest_buildInitBody (s : State) : Forest (buildInitBody s) (leafForest (leavesOf s.freq)) := by
  have hlen := (length_leavesOf s.freq).2
  have hsorted := sorted_indices (n := (leavesOf s.freq).length) (by omega)
  refine ⟨fun p hp => ?_, ?_, ?_, ?_, ?_, ?_⟩
  · obtain ⟨⟨n, k⟩, hc, rfl⟩ := List.mem_map.mp hp
    obtain ⟨hk, hnk⟩ := List.mem_zipIdx' hc
    have hn := nodeAt_buildInitBody s hk
    rw [← hnk] at hn
    exact .leaf _ _ (by rw [hn, hnk]; exact isLeaf_of_mem_leavesOf (List.getElem_mem hk)) (by rw [hn])
  · rw [roots_leafForest, buildInitBody_pq]
  · rw [AllAllocated, ids_leafForest, toNat_buildInitBody_nodeCount]
    exact ⟨hsorted.imp fun h => by bv_omega, by simp, fun i hi => toNat_of_mem_indices (by omega) hi, by
      show _ ≤ 513
      omega⟩
  · rw [leaves_leafForest, toNat_buildInitBody_leafCount]
  · rw [toNat_buildInitBody_leafCount]
    exact hlen
  · rw [buildInitBody_pq]
    exact hsorted

end Sys2Proof.Machine

/-! # The invariant of the node pool

`PoolInv` is kept by every move that starts from `LifecycleInv`: outside RDHDR and DECODE it is what the flags say of the pool
(`PoolHolds`); inside RDHDR the pending subtrees hold every allocated entry (R142), inside DECODE the walk stands in the tree (R162). -/

namespace Sys2Proof.Machine

/-- What TREE_VALID and PQ_ACTIVE say of the node pool (R39, R119). -/
structure PoolHolds (s : State) : Prop where
  tree   : s.treeValid = true → ∃ t, HoldsTree s t
  forest : s.pqActive = true → HoldsForest s ∧ s.pq.Pairwise (· < ·)

/-- The fields the trees and forests are read from. -/
def State.poolPart (s : State) : Vector Node 513 × NodeIdx × BitVec 10 × BitVec 9 × List NodeIdx × Bool × Bool :=
  (s.node, s.root, s.nodeCount, s.leafCount, s.pq, s.treeValid, s.pqActive)

theorem HoldsTree.congr {s u : State} {t : HTree} (h : HoldsTree s t) (e : u.poolPart = s.poolPart) :
    HoldsTree u t := by
  simp only [State.poolPart, Prod.mk.injEq] at e
  obtain ⟨en, er, ec, el, -, ev, -⟩ := e
  have hn : u.nodeAt = s.nodeAt := funext (nodeAt_congr en)
  obtain ⟨hv, ht, hc, hl⟩ := h
  exact ⟨by rw [ev, hv], by rwa [hn, er, ec], by rwa [ec], by rw [el, hl]⟩

theorem HoldsForest.congr {s u : State} (h : HoldsForest s) (e : u.poolPart = s.poolPart) : HoldsForest u := by
  simp only [State.poolPart, Prod.mk.injEq] at e
  obtain ⟨en, -, ec, el, eq, -, -⟩ := e
  have hn : u.nodeAt = s.nodeAt := funext (nodeAt_congr en)
  unfold HoldsForest AllAllocated at *
  rwa [hn, ec, el, eq]

theorem PoolHolds.congr {s u : State} (h : PoolHolds s) (e : u.poolPart = s.poolPart) : PoolHolds u := by
  have e' := e
  simp only [State.poolPart, Prod.mk.injEq] at e'
  obtain ⟨-, -, -, -, eq, ev, ea⟩ := e'
  refine ⟨fun hv => ?_, fun ha => ?_⟩
  · obtain ⟨t, ht⟩ := h.tree (ev ▸ hv)
    exact ⟨t, ht.congr e⟩
  · obtain ⟨hf, hq⟩ := h.forest (ea ▸ ha)
    exact ⟨hf.congr e, eq ▸ hq⟩

theorem PoolInv.holds {s : State} (h : PoolInv s) : PoolHolds s := ⟨h.tree, h.forest⟩

theorem poolHolds_of_flags {s : State} (hp : s.pqActive = false) (ht : s.treeValid = false) : PoolHolds s :=
  ⟨by simp [ht], by simp [hp]⟩

/-- The engine stands at an entry of the pool, or begins to fill it. -/
def Work.inPool : Work → Bool
  | .getMagic => true
  | .getToken _ => true
  | .getValue _ _ => true
  | .decodeBit _ => true
  | .decodeByte _ => true
  | _ => false

/-- Outside RDHDR's and DECODE's bodies the invariant is what the flags say. -/
theorem PoolHolds.inv {s : State} (h : PoolHolds s) (hw : s.work.inPool = false) : PoolInv s where
  magic := fun e => by simp [e, Work.inPool] at hw
  tree := h.tree
  forest := h.forest
  pending := fun st e => by simp [e, Work.inPool] at hw
  value := fun i st e => by simp [e, Work.inPool] at hw
  walk := fun p e => by simp [e, Work.inPool] at hw
  bytes := fun v e => by simp [e, Work.inPool] at hw

/-- A move that leaves the pool alone and the engine outside it. -/
theorem PoolHolds.outsidePool {s u : State} (h : PoolHolds s) (e : u.poolPart = s.poolPart)
    (hw : u.work.inPool = false) : PoolInv u :=
  (h.congr e).inv hw

theorem inPool_of_inWrhdr {w : Work} (h : w.inWrhdr = true) : w.inPool = false := by
  cases w <;> simp_all [Work.inWrhdr, Work.inPool]

theorem inPool_of_usesCodes {w : Work} (h : w.usesCodes = true) : w.inPool = false := by
  cases w <;> simp_all [Work.usesCodes, Work.inPool]

/-! ## Transactions and ends of a body -/

/-- The invariant speaks of the pool and of where the engine stands in it. -/
theorem PoolInv.congr {s u : State} (h : PoolInv s) (e : u.poolPart = s.poolPart) (hw : u.work = s.work) :
    PoolInv u := by
  have hh := h.holds.congr e
  simp only [State.poolPart, Prod.mk.injEq] at e
  obtain ⟨en, er, ec, el, -, -, -⟩ := e
  have hn : u.nodeAt = s.nodeAt := funext (nodeAt_congr en)
  refine ⟨?_, hh.tree, hh.forest, ?_, ?_, ?_, ?_⟩
  · rw [hw, ec, el]
    exact h.magic
  · unfold AllAllocated
    rw [hw, hn, ec, el]
    exact h.pending
  · unfold AllAllocated
    rw [hw, hn, ec, el]
    exact h.value
  · rw [hw, hn, er]
    exact h.walk
  · rw [hw, hn, er]
    exact h.bytes

theorem Transacted.poolPart {s u : State} (h : Transacted s u) : u.poolPart = s.poolPart := by
  rw [h.frame]
  rfl

theorem Transacted.work {s u : State} (h : Transacted s u) : u.work = s.work := by rw [h.frame]

theorem PoolInv.transacted {s u : State} (h : PoolInv s) (hu : Transacted s u) : PoolInv u :=
  h.congr hu.poolPart hu.work

theorem PoolHolds.phaseDone {s : State} (h : PoolHolds s) : PoolInv (phaseDone s) := by
  cases ht : s.todo with
  | nil =>
    rw [phaseDone_last ht]
    exact h.outsidePool rfl rfl
  | cons i rest =>
    rw [phaseDone_more ht]
    exact h.outsidePool rfl rfl

/-- An error gives the pool free contents only inside RDHDR, which has cleared the flags (R143, R194). -/
theorem PoolHolds.raise {s : State} (e : ErrCode) (q : PortId) (h : PoolHolds s)
    (hr : s.work.inRdhdr = true → s.pqActive = false ∧ s.treeValid = false) : PoolInv (raise e q s) := by
  refine PoolHolds.inv ?_ rfl
  obtain ⟨-, hs⟩ | ⟨hw, hs⟩ | ⟨-, -, hs⟩ := spoil_cases s
  · rw [Machine.raise, hs]
    exact h.congr rfl
  · rw [Machine.raise, hs]
    exact poolHolds_of_flags (hr hw).1 (hr hw).2
  · rw [Machine.raise, hs]
    exact h.congr rfl

/-- A body goes on outside the pool. -/
theorem PoolHolds.setWork {s : State} (h : PoolHolds s) {w : Work} (hw : w.inPool = false) :
    PoolInv { s with work := w } :=
  h.outsidePool rfl hw

/-! ## The builders -/

theorem poolHolds_buildInitBody (s : State) : PoolHolds (buildInitBody s) where
  tree := fun h => by simp [buildInitBody_eq, queuedNodes, buildCleared] at h
  forest := fun _ => ⟨(forest_buildInitBody s).holdsForest, (forest_buildInitBody s).sorted⟩

/-- A merge leaves a forest, or the tree of all its nodes (R113, R115, R119). -/
theorem poolHolds_buildMergeBody {s : State} (hp : s.pqActive = true) (hf : FlagsAgree s) (h : PoolHolds s) :
    PoolHolds (buildMergeBody s) := by
  obtain ⟨f, F⟩ := exists_forest (h.forest hp).1 (h.forest hp).2
  obtain ⟨a, ta, ia, b, tb, ib, g, -, -, -, -, -, G⟩ := F.merge (hf.queueTwo hp)
  have ht : (merge s).treeValid = false := by
    obtain ⟨n, c, q, hm⟩ := merge_frame s
    rw [hm]
    simpa [hp] using hf.oneTree
  unfold buildMergeBody
  by_cases hl : (merge s).pq.length = 1
  · obtain ⟨r, hr⟩ := List.length_eq_one_iff.mp hl
    obtain ⟨p, -, hp⟩ := G.holdsTree hr
    exact ⟨fun _ => ⟨_, hp⟩, fun hq => absurd hq (by simp [latchRoot_of_one hr])⟩
  · rw [latchRoot_of_more hl]
    exact ⟨fun hv => absurd hv (by simp [ht]), fun _ => ⟨G.holdsForest, G.sorted⟩⟩

theorem poolHolds_buildBody (s : State) : PoolHolds (buildBody s) :=
  (buildLoop_keeps (P := fun s => FlagsAgree s ∧ PoolHolds s)
    (fun _ hp h => ⟨flagsAgree_buildMergeBody hp h.1, poolHolds_buildMergeBody hp h.1 h.2⟩) _
    ⟨flagsAgree_buildInitBody s, poolHolds_buildInitBody s⟩).2

/-! ## RDHDR -/

theorem PendingIds.congr {pool pool' : NodeIdx → Node} {st : List Frame} {ids : List NodeIdx} {k : Nat}
    (h : PendingIds pool st ids k) (he : ∀ j ∈ ids, pool' j = pool j) : PendingIds pool' st ids k := by
  induction h with
  | nil => exact .nil
  | first i st ids k hi _ ih =>
    exact .first i st ids k (by rw [he i (by simp), hi]) (ih fun j hj => he j (by simp [hj]))
  | second i l t il ids st k hi ht _ ih =>
    exact .second i l t il ids st k (by rw [he i (by simp), hi]) (ht.congr fun j hj => he j (by simp [hj]))
      (ih fun j hj => he j (by simp [hj]))

/-- Every leaf among the pending subtrees has an internal node of its own. -/
theorem PendingIds.leaves_le {pool : NodeIdx → Node} {st : List Frame} {ids : List NodeIdx} {k : Nat}
    (h : PendingIds pool st ids k) : 2 * k ≤ ids.length := by
  induction h with
  | nil => exact le_rfl
  | first i st ids k _ _ ih => rw [List.length_cons]; omega
  | second i l t il ids st k _ ht _ ih =>
    have hs := t.size_add_one
    rw [List.length_cons, List.length_append, ht.length_ids]
    omega

/-- Inside RDHDR: the flags are cleared, the parsed subtree at `r` (if any) and the pending ones hold every allocated entry. -/
structure Parsing (s : State) (st : List Frame) (extra : List NodeIdx) (leaves : Nat) : Prop where
  pqActive  : s.pqActive = false
  treeValid : s.treeValid = false
  pending   : ∃ ids k, PendingIds s.nodeAt st ids k ∧ AllAllocated s (extra ++ ids) ∧ s.leafCount.toNat = leaves + k

/-- The deserializer is at a token. -/
theorem Parsing.token {s : State} {st : List Frame} (h : Parsing s st [] 0) (hw : s.work = .getToken st) :
    PoolInv s where
  magic := fun e => by simp [hw] at e
  tree := fun hv => by simp [h.treeValid] at hv
  forest := fun hp => by simp [h.pqActive] at hp
  pending := fun st' e => by
    obtain rfl : st = st' := by simpa [hw] using e
    obtain ⟨ids, k, hp, ha, hl⟩ := h.pending
    exact ⟨ids, k, hp, ha, by rw [hl, Nat.zero_add]⟩
  value := fun i st e => by simp [hw] at e
  walk := fun p e => by simp [hw] at e
  bytes := fun v e => by simp [hw] at e

/-- The deserializer is at the value bits of leaf `i`. -/
theorem Parsing.value {s : State} {i : NodeIdx} {st : List Frame} (h : Parsing s st [i] 0)
    (hw : s.work = .getValue i st) : PoolInv s where
  magic := fun e => by simp [hw] at e
  tree := fun hv => by simp [h.treeValid] at hv
  forest := fun hp => by simp [h.pqActive] at hp
  pending := fun st e => by simp [hw] at e
  value := fun i' st' e => by
    obtain ⟨rfl, rfl⟩ : i = i' ∧ st = st' := by simpa [hw] using e
    obtain ⟨ids, k, hp, ha, hl⟩ := h.pending
    exact ⟨ids, k, hp, ha, by rw [hl, Nat.zero_add]⟩
  walk := fun p e => by simp [hw] at e
  bytes := fun v e => by simp [hw] at e

theorem PoolInv.parsing_token {s : State} {st : List Frame} (h : PoolInv s) (hw : s.work = .getToken st)
    (hp : s.pqActive = false) (ht : s.treeValid = false) : Parsing s st [] 0 := by
  obtain ⟨ids, k, hpend, ha, hl⟩ := h.pending st hw
  exact ⟨hp, ht, ids, k, hpend, ha, by rw [hl, Nat.zero_add]⟩

theorem PoolInv.parsing_value {s : State} {i : NodeIdx} {st : List Frame} (h : PoolInv s)
    (hw : s.work = .getValue i st) (hp : s.pqActive = false) (ht : s.treeValid = false) : Parsing s st [i] 0 := by
  obtain ⟨ids, k, hpend, ha, hl⟩ := h.value i st hw
  exact ⟨hp, ht, ids, k, hpend, ha, by rw [hl, Nat.zero_add]⟩

/-- INTERNAL allocates an internal node that is pending (R142). -/
theorem Parsing.internal {s : State} {st : List Frame} (h : Parsing s st [] 0) (hc : s.nodeCount.toNat < 513) :
    PoolInv (internalAllocated st s) := by
  obtain ⟨hp, ht, ids, k, hpend, ha, hl⟩ := h
  have ha' := ha.next (t := internalAllocated st s) hc rfl
  have hnew : (internalAllocated st s).nodeAt s.nodeCount = ⟨false, Config.internalValue, 0, Config.nil, Config.nil⟩ :=
    nodeAt_setNode_self s _ _ hc
  have hold : ∀ j ∈ ids, (internalAllocated st s).nodeAt j = s.nodeAt j := fun j hj =>
    nodeAt_setNode_ne s _ (by rintro rfl; exact ha.next_not_mem hj)
  refine Parsing.token ⟨hp, ht, _, k, .first _ _ _ _ (by rw [hnew]) (hpend.congr hold), ha', hl⟩ rfl

/-- LEAF's flag bit allocates the leaf (R142). -/
theorem Parsing.leaf {s : State} {st : List Frame} (h : Parsing s st [] 0) (hc : s.nodeCount.toNat < 513) :
    PoolInv (leafAllocated st s) := by
  obtain ⟨hp, ht, ids, k, hpend, ha, hl⟩ := h
  exact Parsing.value ⟨hp, ht, ids, k, hpend, ha.next (t := leafAllocated st s) hc rfl, hl⟩ rfl

/-- A parsed subtree at `r` closes the pending ones it completes; with none left it is the whole tree (R142, R143). -/
theorem poolInv_closeSubtree (r : NodeIdx) (st : List Frame) {s : State} {t : HTree} {il : List NodeIdx}
    (ht : IsTree s.nodeAt r t il) (h : Parsing s st il t.leaves) : PoolInv (closeSubtree r st s) := by
  induction st generalizing r s t il with
  | nil =>
    obtain ⟨hp, -, ids, k, hpend, ha, hl⟩ := h
    cases hpend
    rw [List.append_nil] at ha
    obtain ⟨hn, hlen, hlt, hc⟩ := ha
    refine PoolHolds.phaseDone ⟨fun _ => ⟨t, rfl, ⟨il, ht, hn, hlen, hlt⟩, hc, hl⟩, fun hp' => ?_⟩
    exact absurd hp' (by simp [hp])
  | cons f st ih =>
    obtain ⟨hp, htv, ids, k, hpend, ha, hl⟩ := h
    cases hpend with
    | first i st ids k hi hrest =>
      have hperm : (il ++ i :: ids).Perm (i :: (il ++ ids)) := List.perm_middle
      exact Parsing.token ⟨hp, htv, _, _, .second i r t il ids st k hi ht hrest, ha.perm hperm, by
        rw [Nat.zero_add]; exact hl⟩ rfl
    | second i l tl ill ids st k hi htl hrest =>
      have hperm : (il ++ i :: (ill ++ ids)).Perm ((i :: (ill ++ il)) ++ ids) := by
        refine List.perm_middle.trans (List.Perm.cons i ?_)
        rw [← List.append_assoc]
        exact List.perm_append_comm.append_right ids
      have ha' := ha.perm hperm
      have hnot : i ∉ ill ++ il ++ ids := by
        have := ha'.1
        rw [List.cons_append, List.nodup_cons] at this
        exact this.1
      have hcap := ha'.lt_cap (i := i) (by simp)
      have hself := nodeAt_setNode_self s i { s.nodeAt i with left := l, right := r } hcap
      have hold : ∀ j, j ∈ ill ++ il ++ ids →
          (s.setNode i { s.nodeAt i with left := l, right := r }).nodeAt j = s.nodeAt j := fun j hj =>
        nodeAt_setNode_ne s _ (by rintro rfl; exact hnot hj)
      refine ih i (t := .node tl t) (il := i :: (ill ++ il)) (.node _ _ _ _ _ (by rw [hself]; exact hi) ?_ ?_)
        ⟨hp, htv, ids, k, hrest.congr fun j hj => hold j (by simp [hj]), ha', ?_⟩
      · rw [hself]
        exact htl.congr fun j hj => hold j (by simp [hj])
      · rw [hself]
        exact ht.congr fun j hj => hold j (by simp [hj])
      · rw [setNode_leafCount, hl, HTree.leaves]
        omega

/-- The value bits fill the allocated leaf, and its subtree is closed (R142). -/
theorem Parsing.filled {s : State} {i : NodeIdx} {st : List Frame} (h : Parsing s st [i] 0) (v : Nat) :
    PoolInv (closeSubtree i st (leafFilled v i s)) := by
  obtain ⟨hp, ht, ids, k, hpend, ha, hl⟩ := h
  have hcap := ha.lt_cap (i := i) (by simp)
  have hnot : i ∉ ids := (List.nodup_cons.mp ha.1).1
  have hself : (leafFilled v i s).nodeAt i = ⟨true, BitVec.ofNat 10 (v % 512), 0, Config.nil, Config.nil⟩ :=
    nodeAt_setNode_self _ _ _ hcap
  have hold : ∀ j ∈ ids, (leafFilled v i s).nodeAt j = s.nodeAt j := fun j hj =>
    nodeAt_setNode_ne _ _ (by rintro rfl; exact hnot hj)
  have hk := hpend.leaves_le
  have hlen := ha.2.1
  have hbound : s.nodeCount.toNat ≤ 513 := ha.2.2.2
  rw [List.length_append, List.length_singleton] at hlen
  have hcount : (s.leafCount + 1).toNat = 1 + k := by
    rw [BitVec.toNat_add, Nat.mod_eq_of_lt]
    · rw [hl, Nat.zero_add, Nat.add_comm]
      rfl
    · have : (1 : BitVec 9).toNat = 1 := rfl
      omega
  exact poolInv_closeSubtree i st (.leaf i _ (by rw [hself]) (by rw [hself]))
    ⟨hp, ht, ids, k, hpend.congr hold, ha, hcount⟩

/-! ## DECODE -/

/-- The walk moves to a child of an internal node of the tree (R162, R163). -/
theorem poolInv_arrive {s : State} {p : NodeIdx} {t : HTree} {ids : List NodeIdx} (h : PoolHolds s)
    (ht : IsTree s.nodeAt s.root t ids) (hroot : (s.nodeAt s.root).isLeaf = false) (hp : p ∈ ids) :
    PoolInv (arrive p s) := by
  unfold arrive
  dsimp only
  split
  · rename_i hleaf
    have hn : (s.nodeAt p).isLeaf = false := by simpa using hleaf
    have g : PoolHolds { s with work := .decodeBit p } := h.congr rfl
    refine ⟨nofun, g.tree, g.forest, nofun, nofun, fun q hq => ?_, nofun⟩
    obtain rfl : p = q := by simpa using hq
    exact ⟨t, ids, ht, hp, hn⟩
  · split
    · exact PoolHolds.phaseDone (h.congr rfl)
    · have g : PoolHolds { s with work := .decodeByte ((s.nodeAt p).value.setWidth 8) } := h.congr rfl
      exact ⟨nofun, g.tree, g.forest, nofun, nofun, nofun, fun _ _ => hroot⟩

/-- The walk stands at the root of a valid tree that is no single leaf (R163). -/
theorem poolInv_decodeBit_root {s : State} (h : PoolHolds s) (hv : s.treeValid = true)
    (hroot : (s.nodeAt s.root).isLeaf = false) : PoolInv { s with work := .decodeBit s.root } := by
  obtain ⟨t, ht⟩ := h.tree hv
  obtain ⟨ids, htree, -⟩ := ht.tree
  have g : PoolHolds { s with work := .decodeBit s.root } := h.congr rfl
  refine ⟨nofun, g.tree, g.forest, nofun, nofun, fun q hq => ?_, nofun⟩
  obtain rfl : s.root = q := by simpa using hq
  exact ⟨t, ids, htree, htree.root_mem, hroot⟩

/-! ## Every move -/

theorem poolInv_startBody {s : State} (i : Instr) (hs : LifecycleInv s) (hw : s.work = .start i)
    (h : PoolInv s) : PoolInv (startBody i s) := by
  have hh := h.holds
  have hr : s.work.inRdhdr = true → s.pqActive = false ∧ s.treeValid = false := fun e => by
    rw [hw] at e
    cases e
  cases i with
  | nop => exact hh.phaseDone
  | clear => exact (poolHolds_of_flags rfl rfl).phaseDone
  | count => exact (poolHolds_of_flags rfl rfl).inv rfl
  | buildInit =>
    rw [startBody, buildInitStart]
    split
    · exact (poolHolds_buildInitBody s).phaseDone
    · exact hh.raise _ _ hr
  | buildMerge =>
    rw [startBody, buildMergeStart]
    split
    · exact (poolHolds_buildMergeBody ‹_› hs.flagsAgree hh).phaseDone
    · exact hh.raise _ _ hr
  | build =>
    rw [startBody, buildStart]
    split
    · exact (poolHolds_buildBody s).phaseDone
    · exact hh.raise _ _ hr
  | gencodes =>
    rw [startBody, gencodesStart]
    split
    · exact hh.raise _ _ hr
    · split
      · exact hh.raise _ _ hr
      · exact PoolHolds.phaseDone (hh.congr rfl)
  | wrhdr =>
    rw [startBody, wrhdrStart]
    split
    · exact hh.setWork rfl
    · exact hh.raise _ _ hr
  | encode =>
    rw [startBody, encodeStart]
    split
    · exact hh.setWork rfl
    · exact hh.raise _ _ hr
  | compress => exact hh.outsidePool rfl rfl
  | rdhdr => exact ⟨fun _ => ⟨rfl, rfl⟩, nofun, nofun, nofun, nofun, nofun, nofun⟩
  | decode =>
    rw [startBody, decodeStart]
    split
    · exact hh.raise _ _ hr
    · split
      · exact hh.raise _ _ hr
      · rename_i hv hroot
        exact poolInv_decodeBit_root hh (by simpa using hv) (by simpa using hroot)
  | decompress => exact hh.outsidePool rfl rfl
  | magic => exact h
  | internal => exact h
  | leaf v => exact h

theorem PoolInv.worked {s t : State} (hw : Worked s t) (hs : LifecycleInv s) (hb : s.phase ≠ .idle)
    (h : PoolInv s) : PoolInv t := by
  induction hw with
  | wait hu => exact h.transacted hu
  | error e q he hu =>
    refine (h.transacted hu).holds.raise e q fun hr => ?_
    have hc := (hs.transacted hu).rdhdrClear hr
    exact ⟨hc.1, hc.2.1⟩
  | finish hu => exact (h.transacted hu).holds.phaseDone
  | start i hw => exact poolInv_startBody i hs hw h
  | countByte f hw hu => exact (h.transacted hu).congr rfl rfl
  | countEnd hw hu => exact PoolHolds.phaseDone ((h.transacted hu).holds.congr rfl)
  | serialize w hw hw' hu => exact (h.transacted hu).holds.setWork (inPool_of_inWrhdr hw')
  | encode w hw hw' hu => exact (h.transacted hu).holds.setWork (inPool_of_usesCodes hw')
  | magic hw hu =>
    have hc := (hs.transacted hu).rdhdrClear (by rw [hu.work, hw]; rfl)
    obtain ⟨hn, hl⟩ := (h.transacted hu).magic (hu.work.trans hw)
    exact Parsing.token ⟨hc.1, hc.2.1, [], 0, .nil, ⟨List.nodup_nil, by simp [hn], by simp, by simp [hn]⟩, by simp [hl]⟩ rfl
  | internal st hw hn hu =>
    have hc := (hs.transacted hu).rdhdrClear (by rw [hu.work, hw]; rfl)
    exact ((h.transacted hu).parsing_token (hu.work.trans hw) hc.1 hc.2.1).internal hn
  | leafFlag st hw hn hu _ ih =>
    have hc := (hs.transacted hu).rdhdrClear (by rw [hu.work, hw]; rfl)
    have hr := (hs.running hb).transacted hu
    refine ih ?_ hr.phase (((h.transacted hu).parsing_token (hu.work.trans hw) hc.1 hc.2.1).leaf hn)
    exact lifecycleInv_inRdhdr ⟨hr.phase, hr.done, hr.err, hr.errCode, hr.errInfo, hr.resetLine⟩ rfl hc
  | leafValue v i st hw hu =>
    have hc := (hs.transacted hu).rdhdrClear (by rw [hu.work, hw]; rfl)
    exact ((h.transacted hu).parsing_value (hu.work.trans hw) hc.1 hc.2.1).filled v
  | walk p bit hw hu =>
    obtain ⟨t, ids, ht, hp, hn⟩ := (h.transacted hu).walk p (hu.work.trans hw)
    have hm := ht.children_mem hp hn
    refine poolInv_arrive (h.transacted hu).holds ht (ht.root_internal hp hn) ?_
    unfold State.descend
    split
    · exact hm.1
    · exact hm.2
  | byte v hw hu =>
    have ht := (hs.transacted hu).treeUsed (by rw [hu.work, hw]; rfl)
    exact poolInv_decodeBit_root (h.transacted hu).holds ht ((h.transacted hu).bytes v (hu.work.trans hw))

theorem PoolInv.outside {s t : State} (h : PoolInv s) (ht : OutsideOnly s t) : PoolInv t := by
  rw [ht]
  exact h.congr rfl rfl

theorem PoolInv.assertReset {s : State} (h : PoolInv s) : PoolInv (assertReset s) := by
  unfold Machine.assertReset
  split
  · exact h.congr rfl rfl
  · exact h.holds.outsidePool rfl rfl

/-- After reset no table is valid and the engine has no work (R46, R220). -/
theorem PoolInv.releaseReset {s : State} (h : PoolInv s) : PoolInv (releaseReset s) := by
  unfold Machine.releaseReset
  split
  · exact (poolHolds_of_flags rfl rfl).inv rfl
  · exact h

theorem poolInv_keptByMoves : KeptByMoves fun s => LifecycleInv s ∧ PoolInv s where
  work := fun s hb hs => ⟨lifecycleInv_keptByMoves.work s hb hs.1, hs.2.worked (tick_worked s) hs.1 hb⟩
  accepted := fun i s hp hl hs => ⟨lifecycleInv_keptByMoves.accepted i s hp hl hs.1, hs.2.holds.outsidePool rfl rfl⟩
  illegal := fun w s hp hs => ⟨lifecycleInv_keptByMoves.illegal w s hp hs.1, hs.2.holds.outsidePool rfl rfl⟩
  acknowledged := fun w s hs => ⟨lifecycleInv_keptByMoves.acknowledged w s hs.1, hs.2.congr rfl rfl⟩
  outside := fun _ _ ht hs => ⟨hs.1.outside ht, hs.2.outside ht⟩
  abandoned := fun _ hs => ⟨hs.1.assertReset, hs.2.assertReset⟩
  released := fun _ hs => ⟨hs.1.releaseReset, hs.2.releaseReset⟩

/-- Settles O58: every move keeps the invariants of the sequencer and of the node pool together (`poolInv_keptByMoves`). -/
theorem stepKeepsPoolInv : Obligations.StepKeepsPoolInv :=
  fun _ _ hs hp h => (poolInv_keptByMoves.step h ⟨hs, hp⟩).2

end Sys2Proof.Machine

/-! # What the instructions write

For each instruction the parts of the machine its body may write (`writesPart`, R37, R40, R42, R45, R48), and that no piece of its
work writes another (`Confined`). -/

namespace Sys2Proof.Machine

/-- The parts of the machine that instructions write: the tables with their registers, the validity flags, and the ports. -/
inductive Part where
  | freq
  | codes
  | pool
  | flags
  | src
  | bsnk
  | bsrc
  | bysnk

/-- The node pool, the tree registers and PQ (R38, R40, R41). -/
def State.treePart (s : State) : Vector Node 513 × NodeIdx × BitVec 10 × BitVec 9 × List NodeIdx :=
  (s.node, s.root, s.nodeCount, s.leafCount, s.pq)

/-- The validity flags (R44). -/
def State.flagPart (s : State) : Bool × Bool × Bool × Bool × Bool :=
  (s.freqValid, s.pqActive, s.treeValid, s.treeSrc, s.codesValid)

/-- The part is the same in `s` and `t`. -/
def Part.Same : Part → State → State → Prop
  | .freq, s, t => t.freq = s.freq
  | .codes, s, t => t.ct = s.ct
  | .pool, s, t => t.treePart = s.treePart
  | .flags, s, t => t.flagPart = s.flagPart
  | .src, s, t => t.src = s.src
  | .bsnk, s, t => t.bsnk = s.bsnk
  | .bsrc, s, t => t.bsrc = s.bsrc
  | .bysnk, s, t => t.bysnk = s.bysnk

theorem Part.Same.refl (p : Part) (s : State) : p.Same s s := by
  cases p <;> exact rfl

theorem Part.Same.trans {p : Part} {s t u : State} (h : p.Same s t) (g : p.Same t u) : p.Same s u := by
  cases p <;> exact Eq.trans g h

/-- The parts an instruction may write: a composite command those of its phases, a wire token those of RDHDR, whose body it is in. -/
def writesPart (i : Instr) (p : Part) : Bool :=
  match i, p with
  | .clear, .freq | .clear, .codes | .clear, .pool | .clear, .flags => true
  | .count, .freq | .count, .flags | .count, .src => true
  | .buildInit, .pool | .buildInit, .flags => true
  | .buildMerge, .pool | .buildMerge, .flags => true
  | .build, .pool | .build, .flags => true
  | .gencodes, .codes | .gencodes, .flags => true
  | .wrhdr, .bsnk => true
  | .encode, .src | .encode, .bsnk => true
  | .compress, .freq | .compress, .codes | .compress, .pool | .compress, .flags => true
  | .compress, .src | .compress, .bsnk => true
  | .rdhdr, .pool | .rdhdr, .flags | .rdhdr, .bsrc => true
  | .decode, .bsrc | .decode, .bysnk => true
  | .magic, .pool | .magic, .flags | .magic, .bsrc => true
  | .internal, .pool | .internal, .flags | .internal, .bsrc => true
  | .leaf _, .pool | .leaf _, .flags | .leaf _, .bsrc => true
  | .decompress, .pool | .decompress, .flags | .decompress, .bsrc | .decompress, .bysnk => true
  | _, _ => false

/-- The instruction whose body the engine is in. -/
def Work.body : Work → Option Instr
  | .none => Option.none
  | .start i => some i
  | .countRead => some .count
  | .putMagic => some .wrhdr
  | .putFlag _ => some .wrhdr
  | .putValue _ => some .wrhdr
  | .getMagic => some .rdhdr
  | .getToken _ => some .rdhdr
  | .getValue _ _ => some .rdhdr
  | .rewind => some .encode
  | .encodeRead => some .encode
  | .emit _ _ => some .encode
  | .decodeBit _ => some .decode
  | .decodeByte _ => some .decode

/-- `i` writes only parts in `W`. -/
def WritesWithin (W : Part → Bool) (i : Instr) : Prop := ∀ p, W p = false → writesPart i p = false

/-- The body at hand writes only parts in `W`. -/
def BodyWithin (W : Part → Bool) (s : State) : Prop := ∀ i, s.work.body = some i → WritesWithin W i

/-- The phases to come write only parts in `W`. -/
def TodoWithin (W : Part → Bool) (s : State) : Prop := ∀ i ∈ s.todo, WritesWithin W i

/-- From `s` to `t` only parts in `W` were written, and so it goes on if the phases to come write no others. -/
structure Confined (W : Part → Bool) (s t : State) : Prop where
  same   : ∀ p, W p = false → p.Same s t
  within : TodoWithin W s → BodyWithin W t ∧ TodoWithin W t

theorem Confined.refl {W : Part → Bool} {s : State} (h : BodyWithin W s) : Confined W s s :=
  ⟨fun p _ => .refl p s, fun ht => ⟨h, ht⟩⟩

theorem Confined.trans {W : Part → Bool} {s t u : State} (h : Confined W s t) (g : Confined W t u) :
    Confined W s u :=
  ⟨fun p hp => (h.same p hp).trans (g.same p hp), fun ht => g.within (h.within ht).2⟩

/-! ## Transactions and ends of a body -/

/-- The part a port is. -/
def PortId.part : PortId → Option Part
  | .none => Option.none
  | .src => some .src
  | .bsnk => some .bsnk
  | .bsrc => some .bsrc
  | .bysnk => some .bysnk

/-- A body that awaits a port's response writes that port (R48). -/
theorem body_writes_port {w : Work} {p : Part} (h : w.port.part = some p) :
    ∃ i, w.body = some i ∧ writesPart i p = true := by
  unfold Work.port at h
  split at h
  all_goals cases h
  all_goals exact ⟨_, rfl, rfl⟩

theorem BodyWithin.port_ne {W : Part → Bool} {s : State} (h : BodyWithin W s) {q : PortId} {p : Part} (hq : q.part = some p)
    (hp : W p = false) : s.work.port ≠ q := by
  rintro rfl
  obtain ⟨i, hi, hw⟩ := body_writes_port hq
  simp [h i hi p hp] at hw

theorem Confined.transacted {W : Part → Bool} {s u : State} (h : BodyWithin W s) (hu : Transacted s u) :
    Confined W s u := by
  refine ⟨fun p hp => ?_, fun ht => ⟨?_, ?_⟩⟩
  · cases p with
    | src => exact hu.src (h.port_ne rfl hp)
    | bsnk => exact hu.bsnk (h.port_ne rfl hp)
    | bsrc => exact hu.bsrc (h.port_ne rfl hp)
    | bysnk => exact hu.bysnk (h.port_ne rfl hp)
    | _ => rw [hu.frame]; exact rfl
  · rw [BodyWithin, hu.work]
    exact h
  · rw [TodoWithin, hu.frame]
    exact ht

theorem body_of_inWrhdr {w : Work} (h : w.inWrhdr = true) : w.body = some .wrhdr := by
  revert h
  cases w <;> simp [Work.inWrhdr, Work.body]

theorem body_of_usesCodes {w : Work} (h : w.usesCodes = true) : w.body = some .encode := by
  revert h
  cases w <;> simp [Work.usesCodes, Work.body]

theorem body_of_inRdhdr {w : Work} (h : w.inRdhdr = true) : w.body = some .rdhdr := by
  revert h
  cases w <;> simp [Work.inRdhdr, Work.body]

theorem within_idle {W : Part → Bool} {s : State} (hw : s.work = .none) (ht : s.todo = []) :
    BodyWithin W s ∧ TodoWithin W s :=
  ⟨fun i hi => by simp [hw, Work.body] at hi, by simp [TodoWithin, ht]⟩

/-- An error writes no part but the table its body had begun to fill (R194). -/
theorem Confined.raise {W : Part → Bool} {s u : State} (e : ErrCode) (q : PortId) (h : Confined W s u)
    (hb : BodyWithin W u) : Confined W s (raise e q u) := by
  refine h.trans ⟨fun p hp => ?_, fun _ => within_idle rfl rfl⟩
  obtain ⟨hw, hs⟩ | ⟨hw, hs⟩ | ⟨-, -, hs⟩ := spoil_cases u
  · rw [Machine.raise, hs]
    cases p with
    | freq =>
      have := hb .count (by rw [hw]; rfl) _ hp
      cases this
    | _ => exact rfl
  · rw [Machine.raise, hs]
    cases p with
    | pool =>
      have := hb .rdhdr (body_of_inRdhdr hw) _ hp
      cases this
    | _ => exact rfl
  · rw [Machine.raise, hs]
    cases p <;> exact rfl

theorem Confined.phaseDone {W : Part → Bool} {s u : State} (h : Confined W s u) : Confined W s (phaseDone u) := by
  refine h.trans ⟨fun p _ => ?_, fun ht => ?_⟩
  · obtain ⟨_, _, _, _, hd⟩ := phaseDone_frame u
    rw [hd]
    cases p <;> exact rfl
  · cases hu : u.todo with
    | nil =>
      rw [phaseDone_last hu]
      exact within_idle rfl rfl
    | cons i rest =>
      rw [TodoWithin, hu] at ht
      rw [phaseDone_more hu]
      refine ⟨fun j hj => ?_, fun j hj => ht j (List.mem_cons_of_mem _ hj)⟩
      obtain rfl : i = j := by simpa [Work.body] using hj
      exact ht i List.mem_cons_self

/-- A body goes on with a work of its own. -/
theorem Confined.setWork {W : Part → Bool} {s u : State} {i : Instr} (h : Confined W s u) (hi : WritesWithin W i)
    (w : Work) (hw : w.body = some i) : Confined W s { u with work := w } := by
  refine h.trans ⟨fun p _ => by cases p <;> exact rfl, fun ht => ⟨fun j hj => ?_, ht⟩⟩
  obtain rfl : i = j := Option.some.inj (hw.symm.trans hj)
  exact hi

/-- The body of `i` writes no more than the parts `i` writes. -/
theorem Confined.writes {W : Part → Bool} {s u t : State} {i : Instr} (h : Confined W s u) (hi : WritesWithin W i)
    (hb : u.work.body = some i) (ht : ∀ p, writesPart i p = false → p.Same u t) (hw : t.work = u.work)
    (htd : t.todo = u.todo) : Confined W s t := by
  refine h.trans ⟨fun p hp => ht p (hi p hp), fun h' => ⟨fun j hj => ?_, ?_⟩⟩
  · rw [hw, hb] at hj
    obtain rfl : i = j := Option.some.inj hj
    exact hi
  · rw [TodoWithin, htd]
    exact h'

/-! ## The bodies -/

/-- A builder's body writes the pool and the flags. -/
theorem Confined.builder {W : Part → Bool} {s t : State} {i : Instr} (h : BodyWithin W s) (hi : s.work = .start i)
    (hp : writesPart i .pool = true) (hf : writesPart i .flags = true) (ht : BuilderOnly s t) : Confined W s t := by
  have hb : s.work.body = some i := by rw [hi]; rfl
  refine (Confined.refl h).writes (h i hb) hb (fun p hw => ?_) (by rw [ht]) (by rw [ht])
  rw [ht]
  cases p with
  | pool => simp [hp] at hw
  | flags => simp [hf] at hw
  | _ => exact rfl

theorem confined_closeSubtree {W : Part → Bool} (r : NodeIdx) (st : List Frame) {s u : State} (h : Confined W s u)
    (hi : WritesWithin W .rdhdr) (hb : u.work.body = some .rdhdr) : Confined W s (closeSubtree r st u) := by
  induction st generalizing r u with
  | nil =>
    refine Confined.phaseDone (h.writes hi hb (fun p hp => ?_) rfl rfl)
    cases p with
    | pool => cases hp
    | flags => cases hp
    | _ => exact rfl
  | cons f st ih =>
    obtain ⟨i, _ | l⟩ := f
    · exact h.setWork hi _ rfl
    · refine ih i (h.writes hi hb (fun p hp => ?_) rfl rfl) hb
      cases p with
      | pool => cases hp
      | _ => exact rfl

theorem confined_arrive {W : Part → Bool} (p : NodeIdx) {s u : State} (h : Confined W s u)
    (hi : WritesWithin W .decode) (hb : u.work.body = some .decode) : Confined W s (arrive p u) := by
  unfold arrive
  dsimp only
  split
  · exact h.setWork hi _ rfl
  · split
    · exact Confined.phaseDone (h.writes hi hb (fun p _ => by cases p <;> exact rfl) rfl rfl)
    · exact h.setWork hi _ rfl

/-- The first phase of a composite command begins, the others are to do (R182, R183). -/
theorem confined_beginPhase {W : Part → Bool} {s : State} {i : Instr} {rest : List Instr}
    (h : ∀ j ∈ i :: rest, WritesWithin W j) : Confined W s (beginPhase i rest s) := by
  refine ⟨fun p _ => by cases p <;> exact rfl, fun _ => ⟨fun j hj => ?_, fun j hj => h j (List.mem_cons_of_mem _ hj)⟩⟩
  obtain rfl : i = j := by simpa [Work.body] using hj
  exact h i List.mem_cons_self

theorem WritesWithin.mono {W : Part → Bool} {i j : Instr} (h : WritesWithin W i)
    (hj : ∀ p, writesPart i p = false → writesPart j p = false) : WritesWithin W j :=
  fun p hp => hj p (h p hp)

theorem confined_startBody {W : Part → Bool} {s : State} (i : Instr) (hw : s.work = .start i) (h : BodyWithin W s) :
    Confined W s (startBody i s) := by
  have hb : s.work.body = some i := by rw [hw]; rfl
  have hr := Confined.refl h
  have hi := h i hb
  cases i with
  | nop => exact hr.phaseDone
  | clear =>
    refine Confined.phaseDone (hr.writes hi hb (fun p hp => ?_) rfl rfl)
    cases p with
    | src | bsnk | bsrc | bysnk => exact rfl
    | _ => cases hp
  | count =>
    refine (hr.writes (t := { countStart s with work := s.work }) hi hb (fun p hp => ?_) rfl rfl).setWork hi .countRead rfl
    cases p with
    | freq | flags | src => cases hp
    | _ => exact rfl
  | buildInit =>
    rw [startBody, buildInitStart]
    split
    · exact (Confined.builder h hw rfl rfl (builderOnly_buildInitBody s)).phaseDone
    · exact hr.raise _ _ h
  | buildMerge =>
    rw [startBody, buildMergeStart]
    split
    · exact (Confined.builder h hw rfl rfl (builderOnly_buildMergeBody s)).phaseDone
    · exact hr.raise _ _ h
  | build =>
    rw [startBody, buildStart]
    split
    · exact (Confined.builder h hw rfl rfl (builderOnly_buildBody s)).phaseDone
    · exact hr.raise _ _ h
  | gencodes =>
    rw [startBody, gencodesStart]
    split
    · exact hr.raise _ _ h
    · split
      · exact hr.raise _ _ h
      · refine Confined.phaseDone (hr.writes hi hb (fun p hp => ?_) rfl rfl)
        cases p with
        | codes | flags => cases hp
        | _ => exact rfl
  | wrhdr =>
    rw [startBody, wrhdrStart]
    split
    · exact hr.setWork hi _ rfl
    · exact hr.raise _ _ h
  | encode =>
    rw [startBody, encodeStart]
    split
    · exact hr.setWork hi _ rfl
    · exact hr.raise _ _ h
  | compress =>
    refine confined_beginPhase fun j hj => hi.mono fun p hp => ?_
    simp only [List.mem_cons, List.not_mem_nil, or_false] at hj
    cases p with
    | bsrc | bysnk => rcases hj with rfl | rfl | rfl | rfl | rfl <;> rfl
    | _ => cases hp
  | rdhdr =>
    refine (hr.writes (t := { rdhdrStart s with work := s.work }) hi hb (fun p hp => ?_) rfl rfl).setWork hi .getMagic rfl
    cases p with
    | pool | flags | bsrc => cases hp
    | _ => exact rfl
  | decode =>
    rw [startBody, decodeStart]
    split
    · exact hr.raise _ _ h
    · split
      · exact hr.raise _ _ h
      · exact hr.setWork hi _ rfl
  | decompress =>
    refine confined_beginPhase fun j hj => hi.mono fun p hp => ?_
    simp only [List.mem_cons, List.not_mem_nil, or_false] at hj
    cases p with
    | freq | codes | src | bsnk => rcases hj with rfl | rfl <;> rfl
    | _ => cases hp
  | magic => exact hr
  | internal => exact hr
  | leaf v => exact hr

/-- No piece of work writes more than its body does. -/
theorem Confined.worked {W : Part → Bool} {s t : State} (hw : Worked s t) (h : BodyWithin W s) : Confined W s t := by
  induction hw with
  | wait hu => exact .transacted h hu
  | error e q _ hu => exact (Confined.transacted h hu).raise e q (by rwa [BodyWithin, hu.work])
  | finish hu => exact (Confined.transacted h hu).phaseDone
  | start i hw => exact confined_startBody i hw h
  | countByte f hw hu =>
    have hi := h .count (by rw [hw]; rfl)
    refine (Confined.transacted h hu).writes hi (by rw [hu.work, hw]; rfl) (fun p hp => ?_) rfl rfl
    cases p with
    | freq => cases hp
    | _ => exact rfl
  | countEnd hw hu =>
    have hi := h .count (by rw [hw]; rfl)
    refine Confined.phaseDone ((Confined.transacted h hu).writes hi (by rw [hu.work, hw]; rfl) (fun p hp => ?_) rfl rfl)
    cases p with
    | flags => cases hp
    | _ => exact rfl
  | serialize w hw hw' hu =>
    exact (Confined.transacted h hu).setWork (h _ (body_of_inWrhdr hw)) w (body_of_inWrhdr hw')
  | encode w hw hw' hu =>
    exact (Confined.transacted h hu).setWork (h _ (body_of_usesCodes hw)) w (body_of_usesCodes hw')
  | magic hw hu => exact (Confined.transacted h hu).setWork (h .rdhdr (by rw [hw]; rfl)) _ rfl
  | @internal s u st hw _ hu =>
    have hi := h .rdhdr (by rw [hw]; rfl)
    refine ((Confined.transacted h hu).writes (t := { internalAllocated st u with work := u.work }) hi
      (by rw [hu.work, hw]; rfl) (fun p hp => ?_) rfl rfl).setWork hi _ rfl
    cases p with
    | pool => cases hp
    | _ => exact rfl
  | @leafFlag s u t st hw _ hu _ ih =>
    have hi := h .rdhdr (by rw [hw]; rfl)
    have hc : Confined W s (leafAllocated st u) := by
      refine ((Confined.transacted h hu).writes (t := { leafAllocated st u with work := u.work }) hi
        (by rw [hu.work, hw]; rfl) (fun p hp => ?_) rfl rfl).setWork hi (.getValue u.nodeCount st) rfl
      cases p with
      | pool => cases hp
      | _ => exact rfl
    exact hc.trans (ih fun i hb => by rwa [← Option.some.inj hb])
  | leafValue v i st hw hu =>
    have hi := h .rdhdr (by rw [hw]; rfl)
    have hb : (Work.getValue i st).body = some .rdhdr := rfl
    rw [← hw, ← hu.work] at hb
    refine confined_closeSubtree i st ((Confined.transacted h hu).writes hi hb (fun p hp => ?_) rfl rfl) hi hb
    cases p with
    | pool => cases hp
    | _ => exact rfl
  | walk p bit hw hu =>
    exact confined_arrive _ (Confined.transacted h hu) (h .decode (by rw [hw]; rfl)) (by rw [hu.work, hw]; rfl)
  | byte v hw hu => exact (Confined.transacted h hu).setWork (h .decode (by rw [hw]; rfl)) _ rfl

/-! ## Whole instructions -/

/-- A wire token that is executed is the engine's piece of work inside RDHDR's body (R142). -/
theorem exec_token {i : Instr} {s t : State} (hi : i.slot ≠ .command) (h : exec i s = .next t) :
    t = tick s ∧ s.work.body = some .rdhdr := by
  have ha : s.awaitedToken = some i := by
    cases i with
    | magic => exact Decidable.byContradiction fun hn => by simp [exec, execMagic, hn] at h
    | internal => exact Decidable.byContradiction fun hn => by simp [exec, execInternal, hn] at h
    | leaf v => exact Decidable.byContradiction fun hn => by simp [exec, execLeaf, hn] at h
    | _ => exact absurd rfl hi
  rw [exec_of_awaited ha] at h
  cases h
  refine ⟨rfl, ?_⟩
  cases hw : s.work with
  | getMagic => rfl
  | getToken st => rfl
  | _ => simp [State.awaitedToken, hw] at ha

/-- No piece of work of the run of command `i` writes a part that `i` does not write. -/
theorem confined_run (i : Instr) (s : State) (k : Nat) :
    Confined (writesPart i) s (run k (accept (commandWord i) (.start i) s)) := by
  have hself : WritesWithin (writesPart i) i := fun _ h => h
  have hacc : Confined (writesPart i) s (accept (commandWord i) (.start i) s) :=
    ⟨fun p _ => by cases p <;> exact rfl, fun _ => ⟨fun j hj => by rwa [← Option.some.inj hj], fun j hj => by cases hj⟩⟩
  have hb : BodyWithin (writesPart i) (accept (commandWord i) (.start i) s) :=
    fun j hj => by rwa [← Option.some.inj hj]
  have ht : TodoWithin (writesPart i) (accept (commandWord i) (.start i) s) := fun j hj => by cases hj
  refine hacc.trans (run_keeps (P := Confined (writesPart i) _) (fun u hu => ?_) (fun u _ hu => ?_) k (.refl hb))
  · exact hu.trans ⟨fun p _ => by cases p <;> exact rfl, fun h => ⟨(hu.within ht).1, h⟩⟩
  · exact hu.trans (.worked (tick_worked u) (hu.within ht).1)

/-- An instruction writes only the parts it may write. -/
theorem same_of_exec {i : Instr} {s t : State} (h : exec i s = .next t) {p : Part} (hp : writesPart i p = false) :
    p.Same s t := by
  by_cases hi : i.slot = .command
  · rw [exec_command hi] at h
    cases h
    unfold runCommand
    split
    · cases p <;> exact rfl
    · exact (confined_run i s _).same p hp
  · obtain ⟨rfl, hb⟩ := exec_token hi h
    have hbody : BodyWithin (writesPart .rdhdr) s := fun j hj => by
      rw [hb] at hj
      rw [← Option.some.inj hj]
      exact fun _ h => h
    have htoken : writesPart i p = writesPart .rdhdr p := by
      cases i with
      | magic | internal | leaf => cases p <;> rfl
      | _ => exact absurd rfl hi
    exact (Confined.worked (tick_worked s) hbody).same p (htoken ▸ hp)

/-- A run changes nothing that only the host, the platform or the environment writes, but for the turns it takes. -/
theorem engineKeeps_run (k : Nat) (s : State) : EngineKeeps { s with sched := (run k s).sched } (run k s) := by
  refine run_keeps (P := fun t => EngineKeeps { s with sched := t.sched } t) (fun t ht => ?_) (fun t _ ht => ?_) k
    (.refl s)
  · exact ⟨ht.intEn, ht.tblAddr, ht.params, ht.drop, ht.host, ht.reads, ht.resetLine, rfl, ht.srcData, ht.bsrcBits⟩
  · have g := tick_keeps t
    rw [g.sched]
    exact ht.trans g

/-- What no instruction writes (R191): DROP only by a write that is dropped. -/
theorem engineKeeps_exec {i : Instr} {s t : State} (h : exec i s = .next t) :
    EngineKeeps { s with sched := t.sched, drop := t.drop } t ∧ (s.phase = .idle → t.drop = s.drop) := by
  by_cases hi : i.slot = .command
  · rw [exec_command hi] at h
    cases h
    unfold runCommand
    split
    · rename_i hb
      exact ⟨.refl _, fun hp => by simp [State.busy, hp] at hb⟩
    · have g := engineKeeps_run s.workBound (accept (commandWord i) (.start i) s)
      refine ⟨?_, fun _ => g.drop⟩
      exact ⟨g.intEn, g.tblAddr, g.params, rfl, g.host, g.reads, g.resetLine, rfl, g.srcData, g.bsrcBits⟩
  · obtain ⟨rfl, -⟩ := exec_token hi h
    have g := tick_keeps s
    exact ⟨⟨g.intEn, g.tblAddr, g.params, rfl, g.host, g.reads, g.resetLine, rfl, g.srcData, g.bsrcBits⟩, fun _ => g.drop⟩

/-- Settles O54: each instruction writes only the parts `writesPart` gives it (`same_of_exec`), and none writes what only the outside
writes (`engineKeeps_exec`). -/
theorem instructionsKeepWhatTheyDoNotWrite : Obligations.InstructionsKeepWhatTheyDoNotWrite := by
  intro i s t h
  obtain ⟨g, hdrop⟩ := engineKeeps_exec h
  refine ⟨g.intEn, g.tblAddr, g.params, g.host, g.reads, g.resetLine, g.srcData, g.bsrcBits, hdrop, fun hi => ?_,
    fun hi => ?_, fun hi => ?_, fun hi => ?_, fun hi => ?_, fun hs hi => ?_, fun hi => ?_, fun hi => ?_⟩
  · exact same_of_exec (p := .freq) h (by cases i <;> simp_all [writesPart])
  · exact same_of_exec (p := .codes) h (by cases i <;> simp_all [writesPart])
  · have := same_of_exec (p := .pool) h (by cases i <;> simp_all [writesPart])
    simpa only [Part.Same, State.treePart, Prod.mk.injEq] using this
  · exact same_of_exec (p := .src) h (by cases i <;> simp_all [writesPart])
  · exact same_of_exec (p := .bsnk) h (by cases i <;> simp_all [writesPart])
  · exact same_of_exec (p := .bsrc) h (by cases i <;> simp_all [writesPart, Instr.slot])
  · exact same_of_exec (p := .bysnk) h (by cases i <;> simp_all [writesPart])
  · have := same_of_exec (p := .flags) h (by cases i <;> simp_all [writesPart])
    simpa only [Part.Same, State.flagPart, Prod.mk.injEq] using this

end Sys2Proof.Machine

/-! # The queue's and the code table's forms, and the state after reset -/

namespace Sys2Proof.Machine

@[simp] theorem phaseDone_pq (s : State) : (phaseDone s).pq = s.pq := by
  obtain ⟨_, _, _, _, h⟩ := phaseDone_frame s
  rw [h]

@[simp] theorem phaseDone_ct (s : State) : (phaseDone s).ct = s.ct := by
  obtain ⟨_, _, _, _, h⟩ := phaseDone_frame s
  rw [h]

@[simp] theorem raise_pq (e : ErrCode) (q : PortId) (s : State) : (raise e q s).pq = s.pq := by
  obtain ⟨_, _, _, h⟩ := raise_frame e q s
  rw [h]

@[simp] theorem raise_ct (e : ErrCode) (q : PortId) (s : State) : (raise e q s).ct = s.ct := by
  obtain ⟨_, _, _, h⟩ := raise_frame e q s
  rw [h]

theorem Transacted.queue_codes {s u : State} (h : Transacted s u) : u.pq = s.pq ∧ u.ct = s.ct := by
  rw [h.frame]
  exact ⟨rfl, rfl⟩

theorem closeSubtree_queue_codes (r : NodeIdx) (st : List Frame) (s : State) :
    (closeSubtree r st s).pq = s.pq ∧ (closeSubtree r st s).ct = s.ct := by
  induction st generalizing r s with
  | nil => exact ⟨phaseDone_pq _, phaseDone_ct _⟩
  | cons f st ih =>
    obtain ⟨i, _ | l⟩ := f
    · exact ⟨rfl, rfl⟩
    · exact ih i _

theorem arrive_queue_codes (p : NodeIdx) (s : State) : (arrive p s).pq = s.pq ∧ (arrive p s).ct = s.ct := by
  unfold arrive
  dsimp only
  split
  · exact ⟨rfl, rfl⟩
  · split
    · exact ⟨phaseDone_pq _, phaseDone_ct _⟩
    · exact ⟨rfl, rfl⟩

/-- The queue and the code table change only where a body starts. -/
theorem Worked.queue_codes {s t : State} (h : Worked s t) :
    (∃ i, s.work = .start i ∧ t = startBody i s) ∨ (t.pq = s.pq ∧ t.ct = s.ct) := by
  induction h with
  | start i hw => exact .inl ⟨i, hw, rfl⟩
  | wait hu => exact .inr hu.queue_codes
  | error e q _ hu => exact .inr (by simpa using hu.queue_codes)
  | finish hu => exact .inr (by simpa using hu.queue_codes)
  | countByte f _ hu => exact .inr hu.queue_codes
  | countEnd _ hu => exact .inr (by simpa using hu.queue_codes)
  | serialize w _ _ hu => exact .inr hu.queue_codes
  | encode w _ _ hu => exact .inr hu.queue_codes
  | magic _ hu => exact .inr hu.queue_codes
  | internal st _ _ hu => exact .inr hu.queue_codes
  | leafFlag st _ _ hu _ ih =>
    obtain ⟨i, hw, -⟩ | ih := ih
    · cases hw
    · exact .inr ⟨ih.1.trans hu.queue_codes.1, ih.2.trans hu.queue_codes.2⟩
  | leafValue v i st _ hu =>
    have hc := closeSubtree_queue_codes i st
    exact .inr ⟨(hc _).1.trans hu.queue_codes.1, (hc _).2.trans hu.queue_codes.2⟩
  | walk p bit _ hu =>
    have ha := arrive_queue_codes
    exact .inr ⟨(ha _ _).1.trans hu.queue_codes.1, (ha _ _).2.trans hu.queue_codes.2⟩
  | byte v _ hu => exact .inr hu.queue_codes

/-- The start of a body writes no part that the body does not write. -/
theorem startBody_same {s : State} {i : Instr} {p : Part} (hw : s.work = .start i) (hp : writesPart i p = false) :
    p.Same s (startBody i s) := by
  have hb : BodyWithin (writesPart i) s := fun j hj => by
    rw [hw] at hj
    rw [← Option.some.inj hj]
    exact fun _ h => h
  exact (confined_startBody i hw hb).same p hp

/-- A body that starts leaves the queue in form (R41). -/
theorem queueCanonical_startBody {s : State} (i : Instr) (hw : s.work = .start i) (h : QueueCanonical s) :
    QueueCanonical (startBody i s) := by
  unfold QueueCanonical at *
  cases hc : writesPart i .pool with
  | false =>
    have hq : (startBody i s).pq = s.pq := congrArg (·.2.2.2.2) (startBody_same (p := .pool) hw hc)
    rwa [hq]
  | true =>
    cases i with
    | clear =>
      rw [startBody, clearStart, phaseDone_pq]
      exact List.Pairwise.nil
    | buildInit =>
      rw [startBody, buildInitStart]
      split
      · rw [phaseDone_pq]
        exact buildInitBody_pairwise s
      · rwa [raise_pq]
    | buildMerge =>
      rw [startBody, buildMergeStart]
      split
      · rw [phaseDone_pq]
        exact buildMergeBody_pairwise h
      · rwa [raise_pq]
    | build =>
      rw [startBody, buildStart]
      split
      · rw [phaseDone_pq]
        exact buildBody_pairwise s
      · rwa [raise_pq]
    | rdhdr => exact List.Pairwise.nil
    | compress | decompress | magic | internal | leaf => exact h
    | _ => cases hc

/-- A body that starts leaves every code within its bound (R42). -/
theorem codesBounded_startBody {s : State} (i : Instr) (hw : s.work = .start i) (h : CodesBounded s) :
    CodesBounded (startBody i s) := by
  unfold CodesBounded at *
  cases hc : writesPart i .codes with
  | false =>
    have hsame : (startBody i s).ct = s.ct := startBody_same (p := .codes) hw hc
    rwa [hsame]
  | true =>
    cases i with
    | clear =>
      rw [startBody, clearStart, phaseDone_ct]
      exact ctUnspecified_bounded _
    | gencodes =>
      rw [startBody, gencodesStart]
      split
      · rwa [raise_ct]
      · split
        · rwa [raise_ct]
        · rw [phaseDone_ct]
          exact generatedCodes_bounded s
    | compress => exact h
    | _ => cases hc

theorem queueCanonical_tick {s : State} (h : QueueCanonical s) : QueueCanonical (tick s) := by
  obtain ⟨i, hw, ht⟩ | ⟨hq, -⟩ := (tick_worked s).queue_codes
  · rw [ht]
    exact queueCanonical_startBody i hw h
  · rw [QueueCanonical, hq]
    exact h

theorem codesBounded_tick {s : State} (h : CodesBounded s) : CodesBounded (tick s) := by
  obtain ⟨i, hw, ht⟩ | ⟨-, hc⟩ := (tick_worked s).queue_codes
  · rw [ht]
    exact codesBounded_startBody i hw h
  · rw [CodesBounded, hc]
    exact h

theorem OutsideOnly.queue_codes {s t : State} (h : OutsideOnly s t) : t.pq = s.pq ∧ t.ct = s.ct := by
  rw [h]
  exact ⟨rfl, rfl⟩

theorem assertReset_queue_codes (s : State) : (assertReset s).pq = s.pq ∧ (assertReset s).ct = s.ct := by
  unfold assertReset
  split <;> exact ⟨rfl, rfl⟩

theorem queueCanonical_keptByMoves : KeptByMoves QueueCanonical where
  work := fun _ _ h => queueCanonical_tick h
  accepted := fun _ _ _ _ h => h
  illegal := fun _ _ _ h => h
  acknowledged := fun _ _ h => h
  outside := fun s t ht h => by rwa [QueueCanonical, ht.queue_codes.1]
  abandoned := fun s h => by rwa [QueueCanonical, (assertReset_queue_codes s).1]
  released := fun s h => by
    unfold releaseReset
    split
    · exact List.Pairwise.nil
    · exact h

theorem codesBounded_keptByMoves : KeptByMoves CodesBounded where
  work := fun _ _ h => codesBounded_tick h
  accepted := fun _ _ _ _ h => h
  illegal := fun _ _ _ h => h
  acknowledged := fun _ _ h => h
  outside := fun s t ht h => by rwa [CodesBounded, ht.queue_codes.2]
  abandoned := fun s h => by rwa [CodesBounded, (assertReset_queue_codes s).2]
  released := fun s h => by
    unfold releaseReset
    split
    · exact ctUnspecified_bounded _
    · exact h

/-- Settles O57: each of the two forms is kept by every move. -/
theorem stepKeepsTheTablesInForm : Obligations.StepKeepsTheTablesInForm :=
  fun _ _ h => ⟨queueCanonical_keptByMoves.step h, codesBounded_keptByMoves.step h⟩

/-- Settles O59: STATUS is clear, the queue is empty, every code is the empty string and no table is valid. -/
theorem resetMeetsTheInvariants : Obligations.ResetMeetsTheInvariants := by
  refine ⟨lifecycleInv_resetRegisters State.reset, List.Pairwise.nil, fun c hc => ?_, (poolHolds_of_flags rfl rfl).inv rfl⟩
  have hc : c ∈ (Vector.replicate 257 ([] : Bits)).toList := hc
  rw [Vector.toList_replicate] at hc
  rw [List.eq_of_mem_replicate hc]
  exact Nat.zero_le _

end Sys2Proof.Machine

/-! # BUILD

The forest a build holds with its leaf values and weights (`Building`), kept by every merge until one tree is left (R116, R118). -/

namespace Sys2Proof.Machine

/-! ## Weights and values -/

theorem HTree.values_node (l r : HTree) :
    (HTree.node l r).codes.map Prod.fst = l.codes.map Prod.fst ++ r.codes.map Prod.fst := by
  simp [HTree.codes, Function.comp_def]

/-- The weights of the leaves add up to the counts and one for the sentinel (R114, R118). -/
theorem sum_weight_leavesOf (freq : Vector Word 256) :
    ((leavesOf freq).map fun n => n.weight.toNat).sum = totalCount freq + 1 := by
  have hfilter : ∀ bs : List (Fin 256),
      (((bs.filter fun b : Fin 256 => freq[b] ≠ 0).map (byteNode freq)).map fun n => n.weight.toNat).sum =
        (bs.map fun b : Fin 256 => freq[b].toNat).sum := by
    intro bs
    induction bs with
    | nil => rfl
    | cons b bs ih =>
      by_cases hb : freq[b] = 0
      · rw [List.filter_cons_of_neg (by simpa using hb), ih, List.map_cons, List.sum_cons, hb]
        simp
      · rw [List.filter_cons_of_pos (by simpa using hb), List.map_cons, List.map_cons, List.sum_cons, ih,
          List.map_cons, List.sum_cons]
        have hlt := freq[b].isLt
        rw [byteNode, BitVec.toNat_setWidth, Nat.mod_eq_of_lt (by omega)]
  have hall : (freq.toList.map BitVec.toNat) = (List.finRange 256).map fun b : Fin 256 => freq[b].toNat := by
    apply List.ext_getElem
    · simp
    · intro i h₁ h₂
      simp
  have hbytes : ((byteNodes freq).map fun n => n.weight.toNat).sum = totalCount freq := by
    rw [totalCount, hall]
    exact hfilter _
  rw [leavesOf_eq, List.map_append, List.sum_append]
  split
  · rename_i hnil
    rw [hnil] at hbytes
    simp [← hbytes]
  · rw [hbytes]
    rfl

/-- No sum of weights overflows (R118). -/
theorem totalCount_lt (freq : Vector Word 256) : totalCount freq + 1 < 2 ^ 41 := by
  have h : (freq.toList.map BitVec.toNat).sum ≤ (freq.toList.map BitVec.toNat).length • (2 ^ 32 - 1) := by
    refine List.sum_le_card_nsmul _ _ fun n hn => ?_
    obtain ⟨c, -, rfl⟩ := List.mem_map.mp hn
    have := c.isLt
    omega
  rw [List.length_map, Vector.length_toList, smul_eq_mul] at h
  unfold totalCount
  omega

/-! ## The build -/

/-- The forest of a build from `s`, after any number of merges: the leaves' values are BUILD_INIT's, the roots' weights add up to the
counts and one, and every internal weight is the sum of its children's. -/
structure Building (s u : State) (f : List (NodeIdx × HTree × List NodeIdx)) : Prop where
  forest : Forest u f
  frame  : u = { buildInitBody s with node := u.node, nodeCount := u.nodeCount, pq := u.pq }
  values : (f.flatMap fun p => p.2.1.codes.map Prod.fst).Perm ((leavesOf s.freq).map Node.value)
  total  : (f.map fun p => (u.nodeAt p.1).weight.toNat).sum = totalCount s.freq + 1
  exact  : ∀ i ∈ f.flatMap fun p => p.2.2, (u.nodeAt i).isLeaf = false →
             (u.nodeAt i).weight.toNat =
               (u.nodeAt (u.nodeAt i).left).weight.toNat + (u.nodeAt (u.nodeAt i).right).weight.toNat

theorem building_buildInitBody (s : State) : Building s (buildInitBody s) (leafForest (leavesOf s.freq)) := by
  have hnode : ∀ c ∈ (leavesOf s.freq).zipIdx, (buildInitBody s).nodeAt (BitVec.ofNat 10 c.2) = c.1 := by
    rintro ⟨n, k⟩ hc
    obtain ⟨hk, hn⟩ := List.mem_zipIdx' hc
    rw [nodeAt_buildInitBody s hk, hn]
  refine ⟨forest_buildInitBody s, rfl, ?_, ?_, ?_⟩
  · rw [leafForest, List.flatMap_map]
    have : ((leavesOf s.freq).zipIdx.flatMap fun c => [c.1.value]) = (leavesOf s.freq).map Node.value := by
      conv_rhs => rw [← List.zipIdx_map_fst 0 (leavesOf s.freq), List.map_map]
      exact (List.map_eq_flatMap ..).symm
    exact this ▸ .refl _
  · rw [leafForest, List.map_map, ← sum_weight_leavesOf]
    conv_rhs => rw [← List.zipIdx_map_fst 0 (leavesOf s.freq), List.map_map]
    exact congrArg _ (List.map_congr_left fun c hc => by simp only [Function.comp_apply, hnode c hc])
  · intro i hi hn
    obtain ⟨p, hp, hi⟩ := List.mem_flatMap.mp hi
    obtain ⟨c, hc, rfl⟩ := List.mem_map.mp hp
    obtain rfl := List.mem_singleton.mp hi
    rw [hnode c hc, isLeaf_of_mem_leavesOf (List.fst_mem_of_mem_zipIdx hc)] at hn
    cases hn

/-- A merge goes on with one tree less; the new root is the last allocated entry (R113). -/
theorem Building.merge {s u : State} {f : List (NodeIdx × HTree × List NodeIdx)} (h : Building s u f)
    (h2 : 2 ≤ u.pq.length) : ∃ g,
    Building s (merge u) g ∧ (merge u).pq.length + 1 = u.pq.length ∧ u.nodeCount ∈ (merge u).pq ∧
      (merge u).nodeCount.toNat = u.nodeCount.toNat + 1 := by
  obtain ⟨a, ta, ia, b, tb, ib, g, hfg, hself, hne, hcount, hpq, G⟩ := h.forest.merge h2
  have F := h.forest.perm hfg
  have hfresh : ∀ p ∈ (a, ta, ia) :: (b, tb, ib) :: g, ∀ i ∈ p.2.2, i ≠ u.nodeCount := by
    rintro p hp i hi rfl
    exact F.alloc.next_not_mem (List.mem_flatMap.mpr ⟨p, hp, hi⟩)
  have hroot : ∀ p ∈ (a, ta, ia) :: (b, tb, ib) :: g, (Machine.merge u).nodeAt p.1 = u.nodeAt p.1 := fun p hp =>
    hne p.1 (hfresh p hp p.1 (F.trees p hp).root_mem)
  have ha := hroot (a, ta, ia) (by simp)
  have hb := hroot (b, tb, ib) (by simp)
  have htotal := (hfg.map fun p => (u.nodeAt p.1).weight.toNat).sum_eq.symm.trans h.total
  simp only [List.map_cons, List.sum_cons] at htotal
  have hw : (u.mergedNode a b).weight.toNat = (u.nodeAt a).weight.toNat + (u.nodeAt b).weight.toNat := by
    have hlt := totalCount_lt s.freq
    rw [State.mergedNode, BitVec.toNat_add, Nat.mod_eq_of_lt (by omega)]
  refine ⟨_, ⟨G, ?_, ?_, ?_, ?_⟩, ?_, ?_, hcount⟩
  · obtain ⟨n, c, q, hm⟩ := merge_frame u
    rw [hm, h.frame]
  · refine List.Perm.trans ?_ ((hfg.flatMap_right _).symm.trans h.values)
    simp only [List.flatMap_cons, HTree.values_node, List.append_assoc]
    exact .refl _
  · have hrest : (g.map fun p => ((Machine.merge u).nodeAt p.1).weight.toNat) =
        g.map fun p => (u.nodeAt p.1).weight.toNat :=
      List.map_congr_left fun p hp => by rw [hroot p (by simp [hp])]
    rw [List.map_cons, List.sum_cons, hself, hw, hrest]
    omega
  · intro i hi hn
    by_cases hi' : i = u.nodeCount
    · subst hi'
      rw [hself, hw]
      exact congrArg₂ (· + ·) (congrArg _ (congrArg _ ha.symm)) (congrArg _ (congrArg _ hb.symm))
    · have hmem : i ∈ ((a, ta, ia) :: (b, tb, ib) :: g).flatMap fun p => p.2.2 := by
        simpa [hi'] using hi
      obtain ⟨p, hp, hip⟩ := List.mem_flatMap.mp hmem
      rw [hne i hi'] at hn ⊢
      have hc := (F.trees p hp).children_mem hip hn
      rw [hne _ (hfresh p hp _ hc.1), hne _ (hfresh p hp _ hc.2)]
      exact h.exact i ((hfg.flatMap_right _).mem_iff.mpr hmem) hn
  · have hlen := G.roots.length_eq
    have hlen' := F.roots.length_eq
    simp only [List.length_map, List.length_cons] at hlen hlen'
    omega
  · rw [hpq]
    simp

theorem buildLoop_of_inactive (k : Nat) {s : State} (h : s.pqActive = false) : buildLoop k s = s := by
  cases k with
  | zero => rfl
  | succ k => simp [buildLoop, h]

/-- BUILD's loop merges until one tree is left, whose root was allocated last (R115, R116). -/
theorem Building.loop {s u : State} {f : List (NodeIdx × HTree × List NodeIdx)} (h : Building s u f) (k : Nat)
    (h2 : 2 ≤ u.pq.length) (hk : u.pq.length ≤ k + 1) : ∃ m p,
    buildLoop k u = latchRoot m ∧ Building s m [p] ∧ m.pq = [p.1] ∧ p.1.toNat + 1 = m.nodeCount.toNat := by
  induction k generalizing u f with
  | zero => omega
  | succ k ih =>
    obtain ⟨g, G, hlen, hmem, hcount⟩ := h.merge h2
    have hact : u.pqActive = true := by rw [h.frame, buildInitBody_eq]
    rw [buildLoop, if_pos hact, buildMergeBody]
    by_cases hl : (Machine.merge u).pq.length = 1
    · obtain ⟨r, hr⟩ := List.length_eq_one_iff.mp hl
      obtain ⟨p, rfl, -⟩ := G.forest.holdsTree hr
      obtain rfl : p.1 = r := by simpa [hr] using G.forest.roots
      have hroot : u.nodeCount = p.1 := by simpa [hr] using hmem
      refine ⟨Machine.merge u, p, buildLoop_of_inactive k ?_, G, hr, hroot ▸ hcount.symm⟩
      rw [latchRoot_of_one hr]
    · rw [latchRoot_of_more hl]
      exact ih G (by omega) (by omega)

/-- Every index below the next free one is allocated. -/
theorem AllAllocated.mem_of_lt {s : State} {ids : List NodeIdx} (h : AllAllocated s ids) {i : NodeIdx}
    (hi : i.toNat < s.nodeCount.toNat) : i ∈ ids := by
  obtain ⟨hn, hl, hlt, -⟩ := h
  have hnum : (ids.map BitVec.toNat).Nodup := hn.map fun _ _ => BitVec.eq_of_toNat_eq
  have hsub : (ids.map BitVec.toNat).Subperm (List.range s.nodeCount.toNat) := by
    refine hnum.subperm fun n hm => ?_
    obtain ⟨j, hj, rfl⟩ := List.mem_map.mp hm
    exact List.mem_range.mpr (hlt j hj)
  have hperm := hsub.perm_of_length_le (by simp [hl])
  obtain ⟨j, hj, hji⟩ := List.mem_map.mp (hperm.mem_iff.mpr (List.mem_range.mpr hi))
  rwa [← BitVec.eq_of_toNat_eq hji]

/-! ## Commands of one piece of work -/

/-- A command whose body ends in its first piece of work. -/
theorem exec_of_one_piece {i : Instr} {s : State} (hi : i.slot = .command) (hr : Ready s)
    (hend : (startBody i (accept (commandWord i) (.start i) s)).phase = .idle) :
    exec i s = .next (startBody i (accept (commandWord i) (.start i) s)) := by
  have hb : s.workBound = (4095 + 4 * s.src.data.length + 4 * s.bsrc.bits.length) + 1 := by
    unfold State.workBound
    omega
  rw [exec_command hi, runCommand_of_idle i hr.1, hb,
    run_succ (s := accept (commandWord i) (.start i) s) _ (by simp) rfl hr.2]
  exact congrArg _ (run_of_idle _ hend)

/-- Settles O32: the loop ends with one tree (`Building.loop`), whose leaves, weights and indices `Building` gives. -/
theorem buildMakesAHuffmanTree : Obligations.BuildMakesAHuffmanTree := by
  intro s hr hv
  have hlen := length_leavesOf s.freq
  have hinit := building_buildInitBody (accept (commandWord .build) (.start .build) s)
  have hpq : (buildInitBody (accept (commandWord .build) (.start .build) s)).pq.length = (leavesOf s.freq).length := by
    rw [buildInitBody_pq]
    simp
  obtain ⟨m, ⟨r, tree, ids⟩, hloop, hm, hq, hroot⟩ := hinit.loop _ (by omega) (Nat.le_succ _)
  have hstart : startBody .build (accept (commandWord .build) (.start .build) s) = complete (latchRoot m) := by
    rw [startBody, buildStart, if_pos (by exact hv), buildBody, hloop, phaseDone_last]
    rw [latchRoot_of_one hq, hm.frame, buildInitBody_eq]
    rfl
  have hexec := exec_of_one_piece (i := .build) rfl hr (by rw [hstart]; rfl)
  rw [hstart] at hexec
  obtain ⟨p, hp, htree⟩ := hm.forest.holdsTree hq
  obtain rfl : (r, tree, ids) = p := by simpa using hp
  have hleafs : tree.leaves = (leavesOf s.freq).length := by
    have := hm.forest.leafs
    rw [hm.frame] at this
    simpa [toNat_buildInitBody_leafCount] using this.symm
  have hcount := hm.forest.nodeCount_add
  have hsum := hm.forest.leafs
  rw [hq, List.length_singleton] at hcount
  simp only [List.map_cons, List.map_nil, List.sum_cons, List.sum_nil, Nat.add_zero] at hsum
  rw [latchRoot_of_one hq] at hexec htree
  refine ⟨_, tree, hexec, ?_, htree.congr rfl, by omega, by omega, hleafs, ?_, ?_, ?_, ?_, ?_⟩
  · rw [hm.frame, buildInitBody_eq]
    rfl
  · show m.nodeCount.toNat = _
    omega
  · show r.toNat = _
    dsimp only at hroot
    omega
  · simpa using hm.values
  · intro i hi hn
    exact hm.exact i (hm.forest.alloc.mem_of_lt hi) hn
  · have := hm.total
    rwa [List.map_singleton, List.sum_singleton] at this

end Sys2Proof.Machine

/-! # Fields of register words

What `bitAt` and `fieldAt` put at which bit (R10, R22), as bits and as numbers, and what the registers made of them read. -/

namespace Sys2Proof.Machine

/-! ## Bits and numbers of a field -/

@[simp] theorem getLsbD_fieldAt {n : Nat} (k : Nat) (v : BitVec n) (i : Nat) :
    (fieldAt k v).getLsbD i = (decide (i < 32) && decide (k ≤ i) && v.getLsbD (i - k)) := by
  rw [fieldAt, BitVec.getLsbD_shiftLeft, BitVec.getLsbD_setWidth]
  by_cases hi : i < 32
  · have h : i - k < 32 := by omega
    rw [decide_eq_true h, Bool.true_and, ← decide_not, decide_eq_decide.mpr Nat.not_lt]
  · simp [hi]

/-- A one-bit field. -/
theorem bitAt_eq_fieldAt {k : Nat} (hk : k < 32) (b : Bool) : bitAt k b = fieldAt k (BitVec.ofBool b) := by
  apply BitVec.eq_of_getLsbD_eq
  intro i hi
  cases b with
  | false => simp [bitAt]
  | true =>
    rw [bitAt, if_pos rfl, BitVec.getLsbD_twoPow, getLsbD_fieldAt]
    by_cases hik : k = i
    · simp [hik, hi]
    · have h : k ≤ i → ¬ i - k < 1 := by omega
      simpa [hik, hk, hi] using h

@[simp] theorem getLsbD_bitAt (k : Nat) (b : Bool) (i : Nat) :
    (bitAt k b).getLsbD i = (decide (k < 32) && b && decide (k = i)) := by
  cases b with
  | false => simp [bitAt]
  | true => simp [bitAt, BitVec.getLsbD_twoPow]

theorem toNat_fieldAt {n k : Nat} (v : BitVec n) (hk : k + n ≤ 32) : (fieldAt k v).toNat = 2 ^ k * v.toNat := by
  have hv : 2 ^ k * v.toNat < 2 ^ (k + n) := by
    rw [Nat.pow_add]
    exact Nat.mul_lt_mul_of_pos_left v.isLt (Nat.two_pow_pos k)
  have hle : 2 ^ (k + n) ≤ 2 ^ 32 := Nat.pow_le_pow_right (by decide) hk
  have hvn : v.toNat < 2 ^ 32 := v.isLt.trans_le (Nat.pow_le_pow_right (by decide) (by omega))
  rw [fieldAt, BitVec.toNat_shiftLeft, BitVec.toNat_setWidth, Nat.mod_eq_of_lt hvn, Nat.shiftLeft_eq, Nat.mul_comm,
    Nat.mod_eq_of_lt (hv.trans_le hle)]

/-- A field above the bits of a word adds to it. -/
theorem toNat_or_fieldAt {n k : Nat} {x : Word} (v : BitVec n) (hx : x.toNat < 2 ^ k) (hk : k + n ≤ 32) :
    (x ||| fieldAt k v).toNat = x.toNat + 2 ^ k * v.toNat := by
  rw [BitVec.toNat_or, toNat_fieldAt v hk, Nat.or_comm, ← Nat.two_pow_add_eq_or_of_lt hx, Nat.add_comm]

/-- Two fields. -/
theorem toNat_two_fields {m n k : Nat} (u : BitVec m) (v : BitVec n) (hm : m ≤ k) (hk : k + n ≤ 32) :
    (fieldAt 0 u ||| fieldAt k v).toNat = u.toNat + 2 ^ k * v.toNat := by
  have hu := toNat_fieldAt (k := 0) u (by omega)
  rw [Nat.pow_zero, Nat.one_mul] at hu
  rw [toNat_or_fieldAt v (by rw [hu]; exact u.isLt.trans_le (Nat.pow_le_pow_right (by decide) hm)) hk, hu]

/-- A field cut out of a word stands where it was. -/
theorem fieldAt_extractLsb' (k n : Nat) (w : Word) :
    fieldAt k (w.extractLsb' k n) = w &&& fieldAt k (BitVec.allOnes n) := by
  apply BitVec.eq_of_getLsbD_eq
  intro i hi
  simp only [getLsbD_fieldAt, BitVec.getLsbD_extractLsb', BitVec.getLsbD_and, BitVec.getLsbD_allOnes, hi]
  by_cases hki : k ≤ i
  · rw [show k + (i - k) = i by omega, Bool.and_comm (decide _) (w.getLsbD i)]
    simp [hki]
  · simp [hki]

/-! ## The registers -/

theorem ErrCode.code_lt (e : ErrCode) : e.code < 16 := by
  cases e <;> decide

/-- The bits of STATUS, by the field they are in (R26). -/
theorem getLsbD_status (s : State) {i : Nat} (hi : i < 32) : s.status.getLsbD i =
    (s.busy && decide (0 = i) || s.done && decide (1 = i) || s.err && decide (2 = i) || s.drop && decide (3 = i) ||
      decide (4 ≤ i) && (decide (i < 8) && s.errCode.code.testBit (i - 4)) ||
      decide (16 ≤ i) && s.lastOpc.getLsbD (i - 16) ||
      (s.freqValid && decide (8 = i) || s.pqActive && decide (9 = i) || s.treeValid && decide (10 = i) ||
        s.treeSrc && decide (11 = i) || s.codesValid && decide (12 = i) || s.eosSeen && decide (13 = i))) := by
  have h8 : i - 4 < 4 ↔ i < 8 := by omega
  simp only [State.status, State.lifecycleBits, State.validityBits, BitVec.getLsbD_or, getLsbD_bitAt, getLsbD_fieldAt,
    BitVec.getLsbD_ofNat, hi, h8, decide_true, Bool.true_and, Nat.reduceLT]

/-- A bit of STATUS written as the obligations do. -/
theorem getElem_status (s : State) (i : Nat) (hi : i < 32) : s.status[i] = s.status.getLsbD i :=
  (BitVec.getLsbD_eq_getElem hi).symm

/-- A field of STATUS, bit by bit. -/
theorem extract_status {s : State} {k n : Nat} {v : BitVec n}
    (h : ∀ i < n, s.status.getLsbD (k + i) = v.getLsbD i) : s.status.extractLsb' k n = v := by
  apply BitVec.eq_of_getLsbD_eq
  intro i hi
  rw [BitVec.getLsbD_extractLsb', decide_eq_true hi, Bool.true_and, h i hi]

/-- Settles O16: the bits of STATUS one by one (`getLsbD_status`). -/
theorem statusFieldsStandAtTheirBits : Obligations.StatusFieldsStandAtTheirBits := by
  refine ⟨rfl, fun s => ?_⟩
  have hcode : s.status.extractLsb' 4 4 = BitVec.ofNat 4 s.errCode.code := by
    refine extract_status fun i hi => ?_
    rw [getLsbD_status s (by omega), BitVec.getLsbD_ofNat]
    interval_cases i <;> simp
  have hresHigh : s.status.extractLsb' 24 8 = 0 := by
    refine extract_status fun i hi => ?_
    rw [getLsbD_status s (by omega), BitVec.getLsbD_of_ge _ _ (by omega)]
    interval_cases i <;> simp
  have hresMid : s.status.extractLsb' 14 2 = 0 := by
    refine extract_status fun i hi => ?_
    rw [getLsbD_status s (by omega)]
    interval_cases i <;> simp
  have hopc : s.status.extractLsb' 16 8 = s.lastOpc := by
    refine extract_status fun i hi => ?_
    rw [getLsbD_status s (by omega)]
    interval_cases i <;> simp
  refine ⟨?_, ?_, ?_, ?_, ?_, ?_, ?_, ?_, ?_, ?_, ?_, hresMid, hopc, hresHigh⟩
  on_goal 5 => rw [hcode, BitVec.toNat_ofNat, Nat.mod_eq_of_lt s.errCode.code_lt]
  all_goals rw [getElem_status, getLsbD_status s (by decide)]; simp

/-- Settles O15: the three terms of `irq`, and the bits of STATUS that show the flags. -/
theorem irqIsTheEnabledFlags : Obligations.IrqIsTheEnabledFlags := by
  intro s
  obtain ⟨-, hs⟩ := statusFieldsStandAtTheirBits
  obtain ⟨-, hdone, herr, hdrop, -⟩ := hs s
  refine ⟨?_, hdone, herr, hdrop⟩
  simp only [State.irq, Bool.or_eq_true, Bool.and_eq_true, or_assoc]

/-! ## Reads -/

/-- What a read that is unspecified while BUSY returns (R225). -/
theorem readIdle_fst (w : Word) (s : State) :
    (readIdle w s).1 = if s.busy then Config.freeWord s.draws else w := by
  unfold readIdle drawWord
  split <;> rfl

/-- What a read of STATUS returns (R27). -/
theorem readStatus_fst (s : State) : (readStatus s).1 =
    if s.busy then s.lifecycleBits ||| (Config.freeWord s.draws &&& 0x3F00) else s.status := by
  unfold readStatus
  split <;> rfl

/-- What a read of TBL_DATA returns (R35). -/
theorem readTblData_fst (s : State) : (readTblData s).1 =
    if s.busy || !s.tableValid then Config.freeWord s.draws else s.tableWord := by
  unfold readTblData drawWord
  split <;> rfl

/-- Settles O18: each register is a word of fields (`toNat_two_fields`, `toNat_or_fieldAt`). -/
theorem registersReadTheirFields : Obligations.RegistersReadTheirFields := by
  refine ⟨rfl, fun s => ⟨?_, fun hw => ?_, ?_⟩, fun s hp hq => ?_⟩
  · exact BitVec.toNat_setWidth_of_le (by decide)
  · have hcount : (BitVec.ofNat 8 s.params.wCount).toNat = s.params.wCount := Nat.mod_eq_of_lt (by omega)
    have h2 := toNat_two_fields (k := 8) (BitVec.ofNat 8 s.params.wCount) (BitVec.ofNat 10 Config.nodeCap) (by decide)
      (by decide)
    rw [hcount] at h2
    have h3 := toNat_or_fieldAt (k := 18) (BitVec.ofNat 9 Config.codeMax) (x := _ ||| _)
      (by rw [h2]; simp; omega) (by decide)
    rw [h2] at h3
    exact h3
  · have h2 := toNat_two_fields (k := 16) s.tblAddr.index s.tblAddr.word (by decide) (by decide)
    have h3 := toNat_or_fieldAt (k := 28) s.tblAddr.table (x := _ ||| _)
      (by rw [h2]; have := s.tblAddr.index.isLt; have := s.tblAddr.word.isLt; omega) (by decide)
    rw [h2] at h3
    exact h3
  · simp only [readReg, readStatus_fst, readIdle_fst, (busy_eq_false_iff s).mpr hp, Bool.false_eq_true, if_false,
      true_and, and_true]
    have hlen : (BitVec.ofNat 9 s.pqSize).toNat = s.pq.length := Nat.mod_eq_of_lt (by unfold State.pqSize; omega)
    have hport : (BitVec.ofNat 4 s.errInfo.port.num).toNat = s.errInfo.port.num := by
      cases s.errInfo.port <;> rfl
    refine ⟨?_, ?_, ?_, ?_, ?_⟩
    · exact toNat_two_fields s.root s.nodeCount (by decide) (by decide)
    · have := toNat_two_fields (k := 16) (BitVec.ofNat 9 s.pqSize) s.leafCount (by decide) (by decide)
      rwa [hlen] at this
    · have := toNat_two_fields (k := 8) (BitVec.ofNat 4 s.errInfo.port.num) s.errInfo.phaseOpc (by decide) (by decide)
      rwa [hport] at this
    · rw [BitVec.extractLsb'_toNat, BitVec.extractLsb'_toNat, Nat.shiftRight_eq_div_pow, Nat.shiftRight_eq_div_pow]
      have := s.bitsOut.isLt
      omega
    · rw [BitVec.extractLsb'_toNat, BitVec.extractLsb'_toNat, Nat.shiftRight_eq_div_pow, Nat.shiftRight_eq_div_pow]
      have := s.bitsIn.isLt
      omega

theorem bitAt_and {k : Nat} {m : Word} (h : BitVec.twoPow 32 k &&& m = 0#32) (b : Bool) :
    bitAt k b &&& m = 0#32 := by
  cases b with
  | false => exact BitVec.zero_and
  | true => exact h

theorem fieldAt_and {n k : Nat} {m : Word} (h : fieldAt k (BitVec.allOnes n) &&& m = 0#32) (v : BitVec n) :
    fieldAt k v &&& m = 0#32 := by
  have hv : fieldAt k v = fieldAt k v &&& fieldAt k (BitVec.allOnes n) := by
    apply BitVec.eq_of_getLsbD_eq
    intro i _
    rw [BitVec.getLsbD_and, getLsbD_fieldAt, getLsbD_fieldAt, BitVec.getLsbD_allOnes]
    by_cases hi : i - k < n
    · rw [decide_eq_true hi, Bool.and_true]
      cases v.getLsbD (i - k) <;> simp
    · simp [BitVec.getLsbD_of_ge v _ (Nat.le_of_not_lt hi)]
  rw [hv, BitVec.and_assoc, h, BitVec.and_zero]

/-- STATUS but for its validity flags has no bit at 13:8 (R26). -/
theorem lifecycleBits_and (s : State) : s.lifecycleBits &&& 0x3F00 = 0#32 := by
  simp only [State.lifecycleBits, BitVec.and_or_distrib_right]
  rw [bitAt_and (by decide), bitAt_and (by decide), bitAt_and (by decide), bitAt_and (by decide),
    fieldAt_and (by decide), fieldAt_and (by decide)]
  rfl

/-- The validity flags have no bit but 13:8 (R26). -/
theorem validityBits_and (s : State) : s.validityBits &&& 0xFFFFC0FF = 0#32 := by
  simp only [State.validityBits, BitVec.and_or_distrib_right]
  rw [bitAt_and (by decide), bitAt_and (by decide), bitAt_and (by decide), bitAt_and (by decide),
    bitAt_and (by decide), bitAt_and (by decide)]
  rfl

/-- Settles O17: the exact registers, and the free value of the others. -/
theorem readsWhileBusy : Obligations.ReadsWhileBusy := by
  intro s hp
  have hb : s.busy = true := by simp [State.busy, hp]
  have hst : (readReg 0x0C s).1 = s.lifecycleBits ||| (Config.freeWord s.draws &&& 0x3F00) := by
    rw [readReg, readStatus_fst, if_pos hb]
  have hidle : ∀ w, (readIdle w s).1 = Config.freeWord s.draws := fun w => by rw [readIdle_fst, if_pos hb]
  have htbl : (readTblData s).1 = Config.freeWord s.draws := by rw [readTblData_fst, hb, Bool.true_or, if_pos rfl]
  refine ⟨?_, ?_, rfl, rfl, rfl, fun addr ha => ?_⟩
  · rw [hst, State.status, BitVec.and_or_distrib_right, BitVec.and_or_distrib_right, validityBits_and, BitVec.and_assoc,
      show (0x3F00 : Word) &&& 0xFFFFC0FF = 0#32 by decide, BitVec.and_zero]
  · rw [hst, BitVec.and_or_distrib_right, lifecycleBits_and, BitVec.and_assoc, BitVec.and_self, BitVec.zero_or]
  · simp only [List.mem_cons, List.not_mem_nil, or_false] at ha
    rcases ha with rfl | rfl | rfl | rfl | rfl | rfl | rfl | rfl | rfl | rfl | rfl
    on_goal 11 => exact htbl
    all_goals exact hidle _

end Sys2Proof.Machine

/-! # The register window

Host accesses in the host's turn, steps of the engine, and what a read gives while IDLE and while BUSY. -/

namespace Sys2Proof.Machine

/-! ## Steps -/

/-- A host access that is served (R61, R220). -/
theorem accessed_eq {addr : Nat} {s : State} (served : Action) (hr : s.resetLine = false) (ha : addr % 4 = 0)
    (hlt : addr ≤ 0xFF) : accessed 32 addr s served = served := by
  have hd : accessDefined 32 addr = true := by
    rw [accessDefined, decide_eq_true_eq]
    exact ⟨rfl, ha, by omega⟩
  simp [accessed, hr, hd]

@[simp] theorem hostServed_host (s : State) : (hostServed s).host = s.host := by
  obtain ⟨r, h⟩ := hostServed_frame s
  rw [h]

@[simp] theorem hostServed_resetLine (s : State) : (hostServed s).resetLine = s.resetLine := by
  obtain ⟨r, h⟩ := hostServed_frame s
  rw [h]

@[simp] theorem hostServed_busy (s : State) : (hostServed s).busy = s.busy := by
  obtain ⟨r, h⟩ := hostServed_frame s
  rw [h]
  rfl

theorem hostServed_of_idle {s : State} (h : s.phase = .idle) : hostServed s = s := by
  unfold hostServed
  split
  · rfl
  · simp_all

theorem step_of_hostTurn {s : State} (h : HostTurn s) : step s = (hostMove (hostServed s)).outcome := by
  rw [step_eq_outcome, fetch_of_hostTurn h]

/-- What a register reads depends neither on the list of turns nor on what the host holds. -/
theorem readReg_served (addr : Nat) (s : State) (r : List Agent) (l : List HostEvent) :
    (readReg addr { s with sched := r, host := l }).1 = (readReg addr s).1 := by
  have hidle : ∀ w, (readIdle w { s with sched := r, host := l }).1 = (readIdle w s).1 := fun w => by
    rw [readIdle_fst, readIdle_fst]
    rfl
  have hstatus : (readStatus { s with sched := r, host := l }).1 = (readStatus s).1 := by
    rw [readStatus_fst, readStatus_fst]
    rfl
  have htbl : (readTblData { s with sched := r, host := l }).1 = (readTblData s).1 := by
    rw [readTblData_fst, readTblData_fst]
    rfl
  unfold readReg
  split <;> simp only [hidle, hstatus, htbl] <;> rfl

/-- The host's first event taken off, where it is known. -/
theorem popEvent_hostServed {s : State} {e : HostEvent} {rest : List HostEvent} (h : s.host = e :: rest) :
    popEvent (hostServed s) = { hostServed s with host := rest } := by
  simp [popEvent, h]

/-- A host write, but to COMMAND, in the host's turn. -/
theorem step_write {s : State} {addr : Nat} {w : Word} {rest : List HostEvent} (ht : HostTurn s)
    (hr : s.resetLine = false) (ha : addr % 4 = 0) (hlt : addr ≤ 0xFF) (hc : addr ≠ commandOffset)
    (h : s.host = .write 32 addr w :: rest) :
    step s = .next (writeReg addr w { hostServed s with host := rest }) := by
  rw [step_of_hostTurn ht, hostMove, hostServed_host, h]
  dsimp only
  rw [accessed_eq _ (by simpa using hr) ha hlt, if_neg hc, popEvent_hostServed h]
  rfl

/-- A host read in the host's turn. -/
theorem step_read {s : State} {addr : Nat} {rest : List HostEvent} (ht : HostTurn s)
    (hr : s.resetLine = false) (ha : addr % 4 = 0) (hlt : addr ≤ 0xFF) (h : s.host = .read 32 addr :: rest) :
    step s = .next (hostRead addr { hostServed s with host := rest }) := by
  rw [step_of_hostTurn ht, hostMove, hostServed_host, h]
  dsimp only
  rw [accessed_eq _ (by simpa using hr) ha hlt, popEvent_hostServed h]
  rfl

/-- Settles O5: the cases of `fetch`, each at its own state. -/
theorem stepRunsTheDecodedInstruction : Obligations.StepRunsTheDecodedInstruction := by
  have haw : ∀ {s s' : State}, nextTurn s = (.engine, s') → s'.awaitedToken = s.awaitedToken := by
    intro s s' hn
    rw [nextTurn_eq] at hn
    rw [← (Prod.mk.inj hn).2]
    rfl
  have hrun : ∀ {s s' : State} {i : Instr}, s.phase ≠ .idle → nextTurn s = (.engine, s') → s.waiting = false →
      s.awaitedToken = some i → step s = exec i s' := by
    intro s s' i hb hn hw ha
    rw [step_of_engineTurn hb hn hw, engineMove, haw hn, ha]
    rfl
  refine ⟨fun s w rest i hp hr hh hd => ?_, fun s s' i rest hb hn hw hk hd => ?_,
    fun s s' st i rest hb hn hw hk hd => ?_, fun s s' hb hn hw ha => ?_⟩
  · have hpop : popEvent s = { s with host := rest } := by simp [popEvent, hh]
    have hbusy : ({ s with host := rest } : State).busy = false := by simp [hp]
    rw [step_of_hostTurn (.inl hp), hostServed_of_idle hp, hostMove, hh]
    dsimp only
    rw [accessed_eq _ hr rfl (by decide), if_pos (by rfl), hpop, commandWrite, hbusy, if_neg Bool.false_ne_true, hd]
    rfl
  · exact hrun hb hn hw (by simp only [State.awaitedToken, hk, hd]; rfl)
  · exact hrun hb hn hw (by simp only [State.awaitedToken, hk, hd]; rfl)
  · rw [step_of_engineTurn hb hn hw, engineMove, haw hn, ha]
    rfl

/-! ## Reset -/

/-- Settles O6: each register of the reset state, read. -/
theorem resetRegisterValues : Obligations.ResetRegisterValues := by
  refine ⟨rfl, rfl, rfl, rfl, rfl, rfl, by decide, rfl, by decide, by decide, by decide, rfl, by decide, by decide,
    by decide, by decide, rfl, rfl, by decide, by decide, fun a ha => ?_⟩
  have hv : ({ State.reset with tblAddr := a } : State).tableValid = false := by
    obtain ⟨_, _, t⟩ := a
    have ht : t = 0 ∨ t = 1 ∨ t = 2 ∨ t = 3 := by bv_omega
    rcases ht with rfl | rfl | rfl | rfl
    · rfl
    · rfl
    · rfl
    · exact absurd rfl ha
  rw [readReg, readTblData_fst, hv]
  rfl

/-- Settles O7: the release gives the registers their reset values and the three tables free contents. -/
theorem releasedResetGivesResetValues : Obligations.ReleasedResetGivesResetValues := by
  intro s rest hr hp hh
  have hpop : popEvent s = { s with host := rest } := by simp [popEvent, hh]
  have hstep : step s = .next
      (resetRegisters { s with host := rest }).freqUnspecified.nodeUnspecified.ctUnspecified := by
    rw [step_of_hostTurn (.inl hp), hostServed_of_idle hp, hostMove, hh]
    dsimp only
    rw [hpop, releaseReset, if_pos (by exact hr)]
    rfl
  exact ⟨_, _, _, _, hstep⟩

/-! ## Host accesses -/

/-- Settles O10: the constants, a read that is served, and WAIT as a read of STATUS (`hostRead_eq`, `hostWait_eq`). -/
theorem readsHaveNoSideEffect : Obligations.ReadsHaveNoSideEffect := by
  refine ⟨fun s => ⟨rfl, rfl, rfl, fun addr ha => ?_⟩, fun s addr rest ht hr ha hlt hh => ?_,
    fun s rest ht hr hh => ?_⟩
  · obtain ⟨k, rfl⟩ := Nat.exists_eq_add_of_le' ha
    rfl
  · obtain ⟨d, hd⟩ := hostRead_eq addr { hostServed s with host := rest }
    obtain ⟨r, hs⟩ := hostServed_frame s
    have hreg : (readReg addr { s with sched := r, host := rest }).1 = (readReg addr s).1 := readReg_served ..
    refine ⟨d, ?_⟩
    rw [step_read ht hr ha hlt hh, hd, hs, ← hreg]
  · obtain ⟨d, hd⟩ := hostWait_eq (hostServed s)
    obtain ⟨r, hs⟩ := hostServed_frame s
    refine ⟨d, ?_⟩
    rw [step_of_hostTurn ht, hostMove, hostServed_host, hh]
    dsimp only
    rw [accessed_eq _ (by simpa using hr) (by decide) (by decide), Action.outcome, hd, hostServed_busy, hostServed_host,
      hh, List.tail_cons, hs]
    have hreg : (readReg statusOffset { s with sched := r }).1 = (readReg 0x0C s).1 := readReg_served 0x0C s r s.host
    rw [hreg]
    rfl

/-- Settles O11: `writeReg` at another offset. -/
theorem readOnlyWritesAreIgnored : Obligations.ReadOnlyWritesAreIgnored := by
  intro s addr w rest ht hr ha hlt hn hh
  simp only [List.mem_cons, List.not_mem_nil, or_false, not_or] at hn
  obtain ⟨h8, hC, h10, h40⟩ := hn
  rw [step_write ht hr ha hlt h8 hh, writeReg]
  · exact hC
  · exact h10
  · exact h40

/-- Settles O12: the fields of the written word stand where they were (`fieldAt_extractLsb'`). -/
theorem intEnAndTblAddrKeepTheirFields : Obligations.IntEnAndTblAddrKeepTheirFields := by
  intro s w rest ht hr
  refine ⟨fun hh => ⟨_, step_write ht hr (by decide) (by decide) (by decide) hh, rfl, ?_⟩,
    fun hh => ⟨_, step_write ht hr (by decide) (by decide) (by decide) hh, rfl, ?_⟩⟩
  · have h := fieldAt_extractLsb' 0 3 w
    have h0 : fieldAt 0 (w.extractLsb' 0 3) = (w.extractLsb' 0 3).setWidth 32 := BitVec.shiftLeft_zero _
    rw [h0] at h
    exact h
  · show fieldAt 0 (w.extractLsb' 0 10) ||| fieldAt 16 (w.extractLsb' 16 4) ||| fieldAt 28 (w.extractLsb' 28 2) = _
    rw [fieldAt_extractLsb', fieldAt_extractLsb', fieldAt_extractLsb', ← BitVec.and_or_distrib_left,
      ← BitVec.and_or_distrib_left]
    rfl

/-- Settles O13: `acknowledge`, flag by flag. -/
theorem statusWriteClearsFlags : Obligations.StatusWriteClearsFlags := by
  intro s w rest ht hr hh
  obtain ⟨r, hs⟩ := hostServed_frame s
  refine ⟨_, step_write ht hr (by decide) (by decide) (by decide) hh, rfl, ?_⟩
  rw [hs]
  have hclear : ∀ a b : Bool, (a && !b) = if b then false else a := by decide
  exact ⟨hclear _ _, hclear _ _, hclear _ _, rfl, rfl⟩

end Sys2Proof.Machine

/-! # The table window

The word TBL_DATA gives for each table of R35: a count, a node's fields, a code's length and its path bits. -/

namespace Sys2Proof.Machine

/-! ## Path bits in a word -/

/-- The bits of `num p`, first bit most significant (R11). -/
theorem testBit_num (p : Bits) {j : Nat} (hj : j < p.length) : (num p).testBit (p.length - 1 - j) = p.getD j false := by
  induction p generalizing j with
  | nil => exact absurd hj (Nat.not_lt_zero j)
  | cons b p ih =>
    rw [num_cons, List.length_cons, Nat.add_sub_cancel, Nat.testBit_two_pow_mul_add _ (num_lt p)]
    cases j with
    | zero => cases b <;> simp
    | succ j =>
      have hlt : j < p.length := Nat.lt_of_succ_lt_succ hj
      rw [if_pos (by omega), List.getD_cons_succ, ← ih hlt, Nat.sub_sub, Nat.add_comm 1 j]

/-- A word of path bits, 0 past their end (R35). -/
theorem getLsbD_packBits (p : Bits) {j : Nat} (hj : j < 32) : (packBits p).getLsbD (31 - j) = p.getD j false := by
  have hlen : ((p ++ List.replicate 32 false).take 32).length = 32 := by simp
  have hbit := testBit_num ((p ++ List.replicate 32 false).take 32) (hlen ▸ hj)
  rw [hlen] at hbit
  rw [packBits, BitVec.getLsbD_ofNat, decide_eq_true (by omega), Bool.true_and, hbit]
  rw [List.getD_eq_getElem?_getD, List.getElem?_take_of_lt hj, ← List.getD_eq_getElem?_getD]
  rcases Nat.lt_or_ge j p.length with hp | hp
  · exact List.getD_append _ _ _ _ hp
  · rw [List.getD_append_right _ _ _ _ hp, List.getD_replicate _ (by omega), List.getD_eq_default _ _ hp]

/-! ## The tables -/

/-- A node's words (R35, R38). -/
theorem nodeWord_of_lt {s : State} {i : NodeIdx} (hc : i.toNat < s.nodeCount.toNat) (hi : i.toNat < 513) (k : Nat) :
    (k = 0 → (s.nodeWord i k).toNat = (if s.node[i.toNat].isLeaf then 2 ^ 31 else 0) + s.node[i.toNat].value.toNat) ∧
    (k = 1 → (s.nodeWord i k).toNat = s.node[i.toNat].left.toNat + 65536 * s.node[i.toNat].right.toNat) ∧
    (k = 2 → (s.nodeWord i k).toNat = s.node[i.toNat].weight.toNat % 2 ^ 32) ∧
    (k = 3 → (s.nodeWord i k).toNat = s.node[i.toNat].weight.toNat / 2 ^ 32) ∧ (4 ≤ k → s.nodeWord i k = 0) := by
  unfold State.nodeWord
  dsimp only
  rw [if_neg (Nat.not_le.mpr hc), nodeAt_of_lt s i hi]
  generalize s.node[i.toNat] = n
  refine ⟨?_, ?_, ?_, ?_, ?_⟩
  · rintro rfl
    show (bitAt 31 n.isLeaf ||| fieldAt 0 n.value).toNat = _
    rw [bitAt_eq_fieldAt (by decide), BitVec.or_comm, toNat_two_fields n.value _ (by decide) (by decide)]
    cases n.isLeaf <;> simp [Nat.add_comm]
  · rintro rfl
    exact toNat_two_fields n.left n.right (by decide) (by decide)
  · rintro rfl
    exact BitVec.extractLsb'_toNat ..
  · rintro rfl
    have hw := n.weight.isLt
    show ((n.weight.extractLsb' 32 9).setWidth 32).toNat = _
    rw [BitVec.toNat_setWidth, BitVec.extractLsb'_toNat, Nat.shiftRight_eq_div_pow]
    omega
  · intro hk
    obtain ⟨m, rfl⟩ := Nat.exists_eq_add_of_le' hk
    rfl

theorem nodeWord_of_ge {s : State} {i : NodeIdx} (hc : s.nodeCount.toNat ≤ i.toNat) (k : Nat) : s.nodeWord i k = 0 :=
  if_pos hc

/-- A code's words (R35, R41). -/
theorem codeWord_of_lt {s : State} (hb : CodesBounded s) {i : Nat} (hi : i < 257) (k : Nat) :
    (k = 0 → (s.codeWord i k).toNat = s.ct[i].length) ∧
    (1 ≤ k → k ≤ 8 → ∀ j < 32, (s.codeWord i k).getLsbD (31 - j) = s.ct[i].getD (32 * (k - 1) + j) false) ∧
    (9 ≤ k → s.codeWord i k = 0) := by
  have hlen : s.ct[i].length ≤ 256 := hb _ (Vector.mem_toList_iff.mpr (Vector.getElem_mem hi))
  unfold State.codeWord
  rw [dif_pos hi]
  dsimp only
  refine ⟨?_, ?_, ?_⟩
  · rintro rfl
    rw [if_pos rfl, BitVec.toNat_ofNat, Nat.mod_eq_of_lt (by omega)]
  · intro h1 h8 j hj
    rw [if_neg (by omega), if_pos h8, getLsbD_packBits _ hj]
    simp [List.getD]
  · intro h9
    rw [if_neg (by omega), if_neg (by omega)]

theorem codeWord_of_ge (s : State) {i : Nat} (hi : 256 < i) (k : Nat) : s.codeWord i k = 0 :=
  dif_neg (by omega)

/-- A read of the selected table while IDLE (R35). -/
theorem readReg_tblData {s : State} (hp : s.phase = .idle) (hv : s.tableValid = true) :
    (readReg 0x44 s).1 = s.tableWord := by
  rw [readReg, readTblData_fst, (busy_eq_false_iff s).mpr hp, hv]
  rfl

/-- A read of a table whose flag is 0 (R35, log entry 6). -/
theorem readReg_tblData_free {s : State} (hv : s.tableValid = false) :
    (readReg 0x44 s).1 = Config.freeWord s.draws := by
  rw [readReg, readTblData_fst, hv, Bool.not_false, Bool.or_true, if_pos rfl]

/-- Settles O19: the table selected decides `tableValid` and `tableWord`, then the words of that table. -/
theorem tblDataReadsTheSelectedWord : Obligations.TblDataReadsTheSelectedWord := by
  intro s hp
  dsimp only
  refine ⟨fun ht hv => ?_, fun ht hv hc => ?_, fun ht hv hb => ?_, fun ht => ?_, fun h => ?_⟩
  · have hvalid : s.tableValid = true := by simp [State.tableValid, ht, hv]
    rw [readReg_tblData hp hvalid, State.tableWord, ht]
    rfl
  · have hvalid : s.tableValid = true := by simpa [State.tableValid, ht] using hv
    have hword : s.tableWord = s.nodeWord s.tblAddr.index s.tblAddr.word.toNat := by rw [State.tableWord, ht]; rfl
    rw [readReg_tblData hp hvalid, hword]
    exact ⟨fun hi => nodeWord_of_ge hi _, fun ⟨hi, h⟩ => nodeWord_of_lt hi h _⟩
  · have hvalid : s.tableValid = true := by simp [State.tableValid, ht, hv]
    have hword : s.tableWord = s.codeWord s.tblAddr.index.toNat s.tblAddr.word.toNat := by
      rw [State.tableWord, ht]; rfl
    rw [readReg_tblData hp hvalid, hword]
    exact ⟨fun hi => codeWord_of_ge s hi _, fun hi => codeWord_of_lt hb hi _⟩
  · have hvalid : s.tableValid = true := by simp [State.tableValid, ht]
    rw [readReg_tblData hp hvalid, State.tableWord, ht]
    rfl
  · refine readReg_tblData_free ?_
    rcases h with ⟨ht, hv⟩ | ⟨ht, hv, hq⟩ | ⟨ht, hv⟩
    · simp [State.tableValid, ht, hv]
    · simp [State.tableValid, ht, hv, hq]
    · simp [State.tableValid, ht, hv]

end Sys2Proof.Machine

/-! # What the register window refuses, and a collaborator that never responds

Accesses the block does not define (R61) or meets in reset (R220), and the command that waits for ever (R62). -/

namespace Sys2Proof.Machine

/-! ## Refused accesses -/

/-- While reset is asserted no access is served (R220). -/
theorem accessed_inReset {s : State} (width addr : Nat) (served : Action) (hr : s.resetLine = true) :
    accessed width addr s served = .refuse .accessInReset := by
  rw [accessed, if_pos hr]

/-- An access of another width, at an unaligned offset or outside the window is not served (R61). -/
theorem accessed_undefined {s : State} {width addr : Nat} (served : Action) (hr : s.resetLine = false)
    (hu : width ≠ 32 ∨ addr % 4 ≠ 0 ∨ 0xFF < addr) :
    accessed width addr s served = .refuse .undefinedAccess := by
  have hd : accessDefined width addr = false := by
    rw [accessDefined, decide_eq_false_iff_not]
    omega
  simp [accessed, hr, hd]

/-- A host write or read in the host's turn is an access of its width and address. -/
theorem step_of_access {s : State} {width addr : Nat} {w : Word} {rest : List HostEvent} (ht : HostTurn s)
    (h : s.host = .write width addr w :: rest ∨ s.host = .read width addr :: rest) :
    ∃ served, step s = (accessed width addr (hostServed s) served).outcome := by
  rw [step_of_hostTurn ht, hostMove, hostServed_host]
  rcases h with h | h
  · rw [h]
    exact ⟨_, rfl⟩
  · rw [h]
    exact ⟨_, rfl⟩

/-- A round of WAIT in the host's turn is an access of STATUS (R85). -/
theorem step_of_wait {s : State} {rest : List HostEvent} (ht : HostTurn s) (h : s.host = .wait :: rest) :
    ∃ served, step s = (accessed 32 statusOffset (hostServed s) served).outcome := by
  rw [step_of_hostTurn ht, hostMove, hostServed_host, h]
  exact ⟨_, rfl⟩

/-- Settles O9: a write, a read and a WAIT are each an access, and `accessed` refuses it. -/
theorem undefinedAccessesAreRefused : Obligations.UndefinedAccessesAreRefused := by
  intro s width addr w rest ht
  refine ⟨fun hr hu h => ?_, fun hr h => ?_⟩
  · obtain ⟨served, hs⟩ := step_of_access ht h
    rw [hs, accessed_undefined served (by rwa [hostServed_resetLine]) hu]
    rfl
  · have haccess : ∃ width addr served, step s = (accessed width addr (hostServed s) served).outcome := by
      rcases h with h | h | h
      · exact ⟨width, addr, step_of_access ht (.inl h)⟩
      · exact ⟨width, addr, step_of_access (w := w) ht (.inr h)⟩
      · exact ⟨32, statusOffset, step_of_wait ht h⟩
    obtain ⟨width, addr, served, hs⟩ := haccess
    rw [hs, accessed_inReset width addr served (by rwa [hostServed_resetLine])]
    rfl

/-! ## A silent collaborator -/

/-- In the host's turn with no host event, a step takes the turn and does nothing else. -/
theorem step_of_noEvent {s : State} (ht : HostTurn s) (h : s.host = []) : step s = .next (hostServed s) := by
  rw [step_of_hostTurn ht, hostMove, hostServed_host, h]
  rfl

/-- Whether the engine waits does not depend on the list of turns. -/
@[simp] theorem hostServed_waiting (s : State) : (hostServed s).waiting = s.waiting := by
  obtain ⟨r, h⟩ := hostServed_frame s
  rw [h]
  rfl

/-- A run of any machine goes on from the state its first step leaves. -/
theorem core_run_succ {M : Host.Core} {s t : M.State} (k : Nat) (h : M.step s = .next t) :
    M.run (k + 1) s = M.run k t := by
  rw [Host.Core.run, h]

/-- While the engine waits and the host has no event, every run changes the list of turns alone (R62). -/
theorem core_run_of_waiting (k : Nat) {s : State} (hw : s.waiting = true) (h : s.host = []) :
    ∃ r, Sys2Proof.core.run k s = .next { s with sched := r } := by
  induction k generalizing s with
  | zero => exact ⟨s.sched, rfl⟩
  | succ k ih =>
    obtain ⟨r, hr⟩ := ih (s := hostServed s) (by rwa [hostServed_waiting]) (by rwa [hostServed_host])
    obtain ⟨_, hs⟩ := hostServed_frame s
    have hstep : Sys2Proof.core.step s = .next (hostServed s) := step_of_noEvent (.inr (.inr hw)) h
    refine ⟨r, ?_⟩
    rw [core_run_succ k hstep, hr, hs]

/-- Settles O23: while the engine waits the turn is the host's, who has no event (`core_run_of_waiting`). -/
theorem silentCollaboratorHangsTheCommand : Obligations.SilentCollaboratorHangsTheCommand :=
  fun _ k _ hw h => core_run_of_waiting k hw h

end Sys2Proof.Machine

/-! # The decoder and the encoder

Each slot's decoder inverted once: it accepts exactly the encodings of its instructions (R81, R82, R87 to R90). -/

namespace Sys2Proof.Machine

/-! ## Command words -/

/-- A command's encoding is its word, first bit most significant (R81). -/
theorem encode_command {i : Instr} (h : i.slot = .command) : encode i = bitsN 32 (commandWord i).toNat := by
  cases i with
  | magic => cases h
  | internal => cases h
  | leaf v => cases h
  | _ => rfl

theorem decodeCommand_commandWord {i : Instr} (h : i.slot = .command) : decodeCommand (commandWord i) = .ok i := by
  cases i with
  | magic => cases h
  | internal => cases h
  | leaf v => cases h
  | _ => rfl

/-- The opcode map, read in both directions, is the same (R81). -/
theorem opcOf_of_commandOfOpc {b : Byte} {i : Instr} (h : commandOfOpc b = .ok i) : opcOf i = b := by
  apply BitVec.eq_of_toNat_eq
  unfold commandOfOpc at h
  split at h
  case h_14 => cases h
  all_goals
    rename_i hb
    rw [hb, ← Except.ok.inj h]
    rfl

/-- The three fields of a command word (R80). -/
theorem commandWord_of_fields {w : Word} {i : Instr} (hr : w.extractLsb' 10 22 = 0) (hm : w.extractLsb' 8 2 = 0)
    (ho : w.extractLsb' 0 8 = opcOf i) : w = commandWord i := by
  have hr' := congrArg BitVec.toNat hr
  have hm' := congrArg BitVec.toNat hm
  rw [BitVec.extractLsb'_toNat, Nat.shiftRight_eq_div_pow] at hr' hm'
  change _ = 0 at hr' hm'
  apply BitVec.eq_of_toNat_eq
  rw [commandWord, ← ho, BitVec.toNat_setWidth, BitVec.extractLsb'_toNat, Nat.shiftRight_eq_div_pow]
  omega

/-- A word decodes to a command exactly when it is that command's word (R81, R82). -/
theorem decodeCommand_eq_ok_iff {w : Word} {i : Instr} :
    decodeCommand w = .ok i ↔ i.slot = .command ∧ w = commandWord i := by
  refine ⟨fun h => ⟨slot_of_decodeCommand h, ?_⟩, fun ⟨hs, hw⟩ => hw ▸ decodeCommand_commandWord hs⟩
  unfold decodeCommand at h
  split at h
  · cases h
  · rename_i hr
    split at h
    · cases h
    · rename_i hm
      exact commandWord_of_fields (not_not.mp hr) (not_not.mp hm) (opcOf_of_commandOfOpc h).symm

theorem commandWord_le (i : Instr) : (commandWord i).toNat ≤ 0x0C := by
  cases i with
  | leaf v => exact Nat.le_add_right 0x0A 2
  | _ => decide

/-- The legal words are the numbers up to `0x0C` (R82). -/
theorem decodeCommand_isOk_iff (w : Word) : (∃ i, decodeCommand w = .ok i) ↔ w.toNat ≤ 0x0C := by
  refine ⟨fun ⟨i, h⟩ => (decodeCommand_eq_ok_iff.mp h).2 ▸ commandWord_le i, fun h => ?_⟩
  have hall : ∀ n < 13, ((decodeCommand (BitVec.ofNat 32 n)).toOption.isSome) = true := by decide
  have hw := hall w.toNat (Nat.lt_succ_of_le h)
  rw [BitVec.ofNat_toNat, BitVec.setWidth_eq] at hw
  cases hd : decodeCommand w with
  | ok i => exact ⟨i, rfl⟩
  | error r => rw [hd] at hw; cases hw

/-- Settles O4: the words up to `0x0C` are the legal ones (`decodeCommand_isOk_iff`); another one is refused right after acceptance. -/
theorem illegalWordsRaiseIllegalCommand : Obligations.IllegalWordsRaiseIllegalCommand := by
  refine ⟨decodeCommand_isOk_iff, fun s w rest hp hr hh hlt => ?_⟩
  have hpop : popEvent s = { s with host := rest } := by simp [popEvent, hh]
  have hbusy : ({ s with host := rest } : State).busy = false := by simp [hp]
  rw [step_of_hostTurn (.inl hp), hostServed_of_idle hp, hostMove, hh]
  dsimp only
  rw [accessed_eq _ hr (by decide) (by decide), if_pos (by rfl), hpop, commandWrite, hbusy, if_neg Bool.false_ne_true]
  cases hd : decodeCommand w with
  | ok i => exact absurd ((decodeCommand_isOk_iff w).mp ⟨i, hd⟩) (Nat.not_le.mpr hlt)
  | error r => rfl

/-! ## Every slot -/

/-- Bits are the number they make, written out, and what follows it. -/
theorem bitsN_num_take_append_drop {n : Nat} {p : Bits} (h : n ≤ p.length) :
    bitsN n (num (p.take n)) ++ p.drop n = p := by
  have hb := bitsN_num (p.take n)
  rw [List.length_take_of_le h] at hb
  rw [hb, List.take_append_drop]

/-- The COMMAND slot's decoder accepts exactly the commands' encodings (R80, R81). -/
theorem decodeAt_command_eq_ok_iff {p rest : Bits} {i : Instr} :
    decodeAt .command p = .ok (i, rest) ↔ i.slot = .command ∧ p = encode i ++ rest := by
  constructor
  · intro h
    unfold decodeAt at h
    dsimp only at h
    split at h
    · cases h
    · rename_i hlen
      cases hd : decodeCommand (BitVec.ofNat 32 (num (p.take 32))) with
      | error r => rw [hd] at h; cases h
      | ok j =>
        rw [hd] at h
        cases h
        obtain ⟨hs, hw⟩ := decodeCommand_eq_ok_iff.mp hd
        have hlt : num (p.take 32) < 2 ^ 32 :=
          Nat.lt_of_lt_of_le (num_lt _) (Nat.pow_le_pow_right (by decide) (List.length_take_le ..))
        refine ⟨hs, ?_⟩
        rw [encode_command hs, ← hw, BitVec.toNat_ofNat, Nat.mod_eq_of_lt hlt,
          bitsN_num_take_append_drop (Nat.not_lt.mp hlen)]
  · rintro ⟨hs, rfl⟩
    rw [encode_command hs, decodeAt, if_neg (by simp), take_bitsN_append, drop_bitsN_append,
      num_bitsN_of_lt (commandWord i).isLt, BitVec.ofNat_toNat, BitVec.setWidth_eq, decodeCommand_commandWord hs]
    rfl

/-- The preamble decodes exactly where it is the magic number (R87). -/
theorem decodePreamble_eq_ok_iff {p rest : Bits} {i : Instr} :
    decodePreamble p = .ok (i, rest) ↔ i = .magic ∧ p = bitsN 32 0xFACE8201 ++ rest := by
  constructor
  · intro h
    unfold decodePreamble at h
    split at h
    · cases h
    · rename_i hlen
      split at h
      · rename_i hm
        cases h
        have hp := bitsN_num_take_append_drop (Nat.not_lt.mp hlen)
        rw [hm] at hp
        exact ⟨rfl, hp.symm⟩
      · cases h
  · rintro ⟨rfl, rfl⟩
    rw [decodePreamble, if_neg (by simp), take_bitsN_append, drop_bitsN_append, num_bitsN_of_lt (by decide)]
    rfl

/-- The tree section's decoder accepts exactly INTERNAL and the LEAF tokens of nine-bit values (R88, R89, R90). -/
theorem decodeTree_eq_ok_iff {p rest : Bits} {i : Instr} :
    decodeTree p = .ok (i, rest) ↔ (i = .internal ∧ p = false :: rest) ∨
      ∃ v < 512, i = .leaf v ∧ p = true :: bitsN 9 v ++ rest := by
  constructor
  · intro h
    unfold decodeTree at h
    split at h
    · cases h
    · cases h
      exact .inl ⟨rfl, rfl⟩
    · rename_i p
      split at h
      · cases h
      · rename_i hlen
        cases h
        have hle := Nat.not_lt.mp hlen
        have hlt := num_lt (p.take 9)
        rw [List.length_take_of_le hle] at hlt
        exact .inr ⟨_, hlt, rfl, by rw [List.cons_append, bitsN_num_take_append_drop hle]⟩
  · rintro (⟨rfl, rfl⟩ | ⟨v, hv, rfl, rfl⟩)
    · rfl
    · rw [List.cons_append, decodeTree, if_neg (by simp), take_bitsN_append, drop_bitsN_append, num_bitsN_of_lt hv]

/-- The decoder inverted: each slot accepts exactly the encodings of its well-formed instructions. -/
theorem decodeAt_eq_ok_iff {slot : Slot} {p rest : Bits} {i : Instr} :
    decodeAt slot p = .ok (i, rest) ↔ WellFormed i ∧ i.slot = slot ∧ p = encode i ++ rest := by
  cases slot with
  | command =>
    rw [decodeAt_command_eq_ok_iff]
    refine ⟨fun ⟨hs, hp⟩ => ⟨?_, hs, hp⟩, fun ⟨_, h⟩ => h⟩
    cases i with
    | leaf v => cases hs
    | _ => rfl
  | preamble =>
    rw [decodeAt, decodePreamble_eq_ok_iff]
    refine ⟨?_, fun ⟨_, hs, hp⟩ => ?_⟩
    · rintro ⟨rfl, hp⟩
      exact ⟨rfl, rfl, hp⟩
    · cases i with
      | magic => exact ⟨rfl, hp⟩
      | _ => cases hs
  | tree =>
    rw [decodeAt, decodeTree_eq_ok_iff]
    constructor
    · rintro (⟨rfl, hp⟩ | ⟨v, hv, rfl, hp⟩)
      · exact ⟨rfl, rfl, hp⟩
      · exact ⟨decide_eq_true hv, rfl, hp⟩
    · rintro ⟨hw, hs, hp⟩
      cases i with
      | internal => exact .inl ⟨rfl, hp⟩
      | leaf v => exact .inr ⟨v, of_decide_eq_true hw, rfl, hp⟩
      | _ => cases hs

/-- Settles O2: `decodeAt_eq_ok_iff`, from right to left. -/
theorem decodeOfEncodeIsTheInstruction : Obligations.DecodeOfEncodeIsTheInstruction :=
  fun _ hw _ => decodeAt_eq_ok_iff.mpr ⟨hw, rfl, rfl⟩

/-- Settles O3: `decodeAt_eq_ok_iff`, from left to right. -/
theorem decodedBitsAreTheEncoding : Obligations.DecodedBitsAreTheEncoding :=
  fun _ _ _ _ h => decodeAt_eq_ok_iff.mp h

/-- Settles O1: each word written out is the encoding of its instruction. -/
theorem specWordsDecode : Obligations.SpecWordsDecode := by
  refine ⟨rfl, rfl, rfl, rfl, rfl, rfl, decodeAt_eq_ok_iff.mpr ⟨rfl, rfl, ?_⟩, rfl, ?_⟩
  · decide
  · exact decodeAt_eq_ok_iff.mpr ⟨rfl, rfl, by decide⟩

end Sys2Proof.Machine

/-! # The wire tokens

What MAGIC, INTERNAL and LEAF do where the deserializer awaits them (R142, R143), and the fault elsewhere. -/

namespace Sys2Proof.Machine

/-! ## What is awaited -/

/-- The deserializer awaits the token whose encoding stands next on BSRC. -/
theorem awaitedToken_of_encode {s : State} {i : Instr} {rest : Bits} (hi : WellFormed i)
    (hr : s.bsrcRest = encode i ++ rest)
    (hw : (s.work = .getMagic ∧ i.slot = .preamble) ∨ ((∃ st, s.work = .getToken st) ∧ i.slot = .tree)) :
    s.awaitedToken = some i := by
  have hd : ∀ slot, i.slot = slot → decodeAt slot s.bsrcRest = .ok (i, rest) := fun slot hs =>
    decodeAt_eq_ok_iff.mpr ⟨hi, hs, hr⟩
  rcases hw with ⟨hw, hs⟩ | ⟨⟨st, hw⟩, hs⟩
  · simp only [State.awaitedToken, hw, hd _ hs]
    rfl
  · simp only [State.awaitedToken, hw, hd _ hs]
    rfl

/-- A wire token where it is not awaited. -/
theorem exec_of_not_awaited {s : State} {i : Instr} (hi : i.slot ≠ .command) (h : s.awaitedToken ≠ some i) :
    exec i s = .fault .tokenNotAwaited := by
  cases i with
  | magic => exact if_neg h
  | internal => exact if_neg h
  | leaf v => exact if_neg h
  | _ => exact absurd rfl hi

/-- Which token is awaited says where the deserializer is. -/
theorem work_of_awaitedToken {s : State} {i : Instr} (h : s.awaitedToken = some i) :
    (s.work = .getMagic ∧ i = .magic) ∨ ∃ st, s.work = .getToken st ∧ i ≠ .magic := by
  cases hw : s.work with
  | getMagic => exact .inl ⟨rfl, awaitedToken_getMagic hw h⟩
  | getToken st =>
    refine .inr ⟨st, rfl, ?_⟩
    rcases awaitedToken_getToken hw h with ⟨p, -, rfl⟩ | ⟨p, -, rfl⟩ <;> exact nofun
  | _ => simp [State.awaitedToken, hw] at h

/-- Settles O53: an awaited token says where the deserializer is, and INTERNAL that a 0 stands next. -/
theorem tokensOnlyWhereAwaited : Obligations.TokensOnlyWhereAwaited := by
  intro s
  have htree : (∀ st, s.work ≠ .getToken st) → ∀ i, i ≠ .magic → s.awaitedToken ≠ some i := by
    intro hw i hi h
    rcases work_of_awaitedToken h with ⟨-, hm⟩ | ⟨st, hst, -⟩
    · exact hi hm
    · exact hw st hst
  refine ⟨fun hw => exec_of_not_awaited nofun fun h => ?_, fun hw => ⟨?_, fun v => ?_⟩,
    fun hb => exec_of_not_awaited nofun fun h => ?_⟩
  · rcases work_of_awaitedToken h with ⟨hm, -⟩ | ⟨st, -, hn⟩
    · exact hw hm
    · exact hn rfl
  · exact exec_of_not_awaited nofun (htree hw _ nofun)
  · exact exec_of_not_awaited nofun (htree hw _ nofun)
  · rcases work_of_awaitedToken h with ⟨-, hm⟩ | ⟨st, hst, -⟩
    · cases hm
    · rcases awaitedToken_getToken hst h with ⟨p, hp, -⟩ | ⟨p, -, hl⟩
      · exact hb (by rw [hp]; rfl)
      · cases hl

/-! ## Reads of the deserializer -/

/-- `s` after a read of `n` bits that BSRC answered: consumed, and counted in BITS_IN (R142). -/
def bitsTaken (n : Nat) (s : State) : State :=
  { s with
    bsrc := ⟨s.bsrc.bits, s.bsrc.pos + n, s.bsrc.replies.tail⟩
    bitsIn := s.bitsIn + BitVec.ofNat 64 n }

/-- The same in the tree section, counted in HDR_BITS too (R142). -/
def treeBitsTaken (n : Nat) (s : State) : State :=
  { bitsTaken n s with hdrBits := s.hdrBits + BitVec.ofNat 32 n }

@[simp] theorem bsrcRest_bitsTaken (n : Nat) (s : State) : (bitsTaken n s).bsrcRest = s.bsrcRest.drop n :=
  bsrcRest_advance s n _

@[simp] theorem bsrcRest_treeBitsTaken (n : Nat) (s : State) : (treeBitsTaken n s).bsrcRest = s.bsrcRest.drop n :=
  bsrcRest_bitsTaken n s

/-- The bits `q` stand next, and BSRC answers. -/
theorem get_of_next {s : State} {q rest : Bits} (e : ErrCode) (ha : Answers s.bsrc.replies)
    (hr : s.bsrcRest = q ++ rest) : get q.length e s = .go (num q) (bitsTaken q.length s) := by
  rw [get_data e (nextReply_of_answers ha) (by simp [hr]), hr, List.take_left]
  rfl

/-- The flag bit of a token where the pool has a free entry (R142). -/
theorem getFlag_of_next {s : State} {b : Bool} {rest : Bits} (ha : Answers s.bsrc.replies)
    (hr : s.bsrcRest = b :: rest) (hc : s.nodeCount.toNat < 513) : getFlag s = .go () (treeBitsTaken 1 s) := by
  have hget : get 1 .truncatedHeader s = .go (num [b]) (bitsTaken 1 s) := get_of_next (q := [b]) _ ha hr
  rw [getFlag, hget]
  exact if_neg (Nat.not_le.mpr hc)

/-- The value bits of a leaf (R142). -/
theorem leafValue_of_next {s : State} {q rest : Bits} (v : Nat) (i : NodeIdx) (st : List Frame)
    (ha : Answers s.bsrc.replies) (hq : q.length = 9) (hr : s.bsrcRest = q ++ rest) :
    leafValue v i st s = closeSubtree i st (leafFilled v i (treeBitsTaken 9 s)) := by
  have hget := get_of_next .truncatedHeader ha hr
  rw [hq] at hget
  rw [leafValue, hget]
  rfl

/-- INTERNAL where the pool has a free entry (R142). -/
theorem internalToken_of_next {s : State} {b : Bool} {rest : Bits} (st : List Frame) (ha : Answers s.bsrc.replies)
    (hr : s.bsrcRest = b :: rest) (hc : s.nodeCount.toNat < 513) :
    internalToken st s = internalAllocated st (treeBitsTaken 1 s) := by
  rw [internalToken, getFlag_of_next ha hr hc]
  rfl

/-- `s` after the two reads of a LEAF token of value `v`, before its subtree is closed: the next pool entry is the leaf (R142). -/
def leafRead (v : Nat) (st : List Frame) (s : State) : State :=
  { s with
    work := .getValue s.nodeCount st, bitsIn := s.bitsIn + 10, hdrBits := s.hdrBits + 10
    node := s.node.setIfInBounds s.nodeCount.toNat ⟨true, BitVec.ofNat 10 v, 0, Config.nil, Config.nil⟩
    nodeCount := s.nodeCount + 1, leafCount := s.leafCount + 1
    bsrc := ⟨s.bsrc.bits, s.bsrc.pos + 10, s.bsrc.replies.drop 2⟩ }

/-- The flag bit and the value bits together. -/
theorem leafRead_eq {v : Nat} (hv : v < 512) (st : List Frame) (s : State) :
    leafFilled v s.nodeCount (treeBitsTaken 9 (leafAllocated st (treeBitsTaken 1 s))) = leafRead v st s := by
  have hbits : s.bitsIn + 1#64 + 9#64 = s.bitsIn + 10 := BitVec.add_assoc ..
  have hhdr : s.hdrBits + 1#32 + 9#32 = s.hdrBits + 10 := BitVec.add_assoc ..
  have hdrop : s.bsrc.replies.tail.tail = s.bsrc.replies.drop 2 := by
    rw [← List.drop_one, ← List.drop_one, List.drop_drop]
  simp only [leafFilled, leafAllocated, treeBitsTaken, bitsTaken, leafRead, State.setNode, hbits, hhdr, hdrop,
    Nat.mod_eq_of_lt hv]

/-- LEAF where the pool has a free entry (R142). -/
theorem leafToken_of_next {s : State} {v : Nat} {rest : Bits} (st : List Frame) (ha : Answers s.bsrc.replies)
    (hv : v < 512) (hr : s.bsrcRest = true :: bitsN 9 v ++ rest) (hc : s.nodeCount.toNat < 513) :
    leafToken v st s = closeSubtree s.nodeCount st (leafRead v st s) := by
  have hrest : (leafAllocated st (treeBitsTaken 1 s)).bsrcRest = bitsN 9 v ++ rest :=
    (bsrcRest_treeBitsTaken 1 s).trans (by rw [hr]; rfl)
  have hvalue := leafValue_of_next v s.nodeCount st (s := leafAllocated st (treeBitsTaken 1 s)) ha.tail
    (length_bitsN 9 v) hrest
  rw [leafToken, getFlag_of_next ha hr hc, ← leafRead_eq hv]
  exact hvalue

/-! ## What a token does -/

/-- Settles O50: the preamble is read and is the magic number. -/
theorem magicStartsTheTreeSection : Obligations.MagicStartsTheTreeSection := by
  intro s rest hw ha hr
  have hget : get 32 .formatMismatch s = .go (num (bitsN 32 0xFACE8201)) (bitsTaken 32 s) :=
    get_of_next _ ha hr
  have hm : num (bitsN 32 0xFACE8201) = Config.magicTree.toNat := num_bitsN_of_lt (by decide)
  rw [exec_of_awaited (awaitedToken_of_encode rfl hr (.inl ⟨hw, rfl⟩)), tick, hw]
  dsimp only
  rw [getMagicTick, hget]
  dsimp only
  rw [if_pos hm]
  rfl

/-- Settles O51: the flag bit is read, and the next pool entry is the internal node (`internalToken_of_next`). -/
theorem internalOpensASubtree : Obligations.InternalOpensASubtree := by
  intro s st rest hw ha hr hc
  rw [exec_of_awaited (awaitedToken_of_encode rfl hr (.inr ⟨⟨st, hw⟩, rfl⟩)), tick, hw]
  dsimp only
  rw [getTokenTick, hr]
  dsimp only
  rw [internalToken_of_next st ha hr hc]
  rfl

/-- Settles O52: LEAF's reads (`leafToken_of_next`), then the cases of `closeSubtree`. -/
theorem leafClosesASubtree : Obligations.LeafClosesASubtree := by
  intro s st v rest hw ha hv hr hc
  have hexec : exec (.leaf v) s = .next (closeSubtree s.nodeCount st (leafRead v st s)) := by
    have hwf : WellFormed (.leaf v) := decide_eq_true hv
    have hval : num ((bitsN 9 v ++ rest).take 9) = v := by rw [take_bitsN_append, num_bitsN_of_lt hv]
    rw [exec_of_awaited (awaitedToken_of_encode hwf hr (.inr ⟨⟨st, hw⟩, rfl⟩)), tick, hw]
    dsimp only
    rw [getTokenTick, hr, List.cons_append]
    dsimp only
    rw [hval, leafToken_of_next st ha hv hr hc]
  refine ⟨hexec, ?_, ?_, fun hst htodo => ?_⟩
  · rintro i tl rfl
    exact hexec
  · rintro i l tl rfl
    exact hexec
  · subst hst
    rw [hexec, closeSubtree, phaseDone_last (by exact htodo), complete]
    simp only [leafRead, htodo]
    rfl

end Sys2Proof.Machine

/-! # The runs of RDHDR, WRHDR and ENCODE

What a body does from its start to its `done`, piece of work by piece of work. Each is said of any BUSY state, so that it holds of
the command and of the phase of a composite command alike; `exec_of_run` makes a command's result of it. -/

namespace Sys2Proof.Machine

/-! ## Runs -/

/-- The engine has the next turn and every turn after it. -/
structure EngineRuns (s : State) : Prop where
  busy  : s.phase ≠ .idle
  sched : s.sched = []

theorem waiting_eq_false {s : State} (h : s.replyAt s.work.port = .answer) : s.waiting = false := by
  simp [State.waiting, h]

/-- One piece of work whose transaction is answered, and then the others. -/
theorem EngineRuns.run_succ {s : State} (h : EngineRuns s) (k : Nat) (hw : s.replyAt s.work.port = .answer) :
    run (k + 1) s = run k (tick s) :=
  Machine.run_succ k h.busy (waiting_eq_false hw) h.sched

/-- A command's result is where the run of its body ends. -/
theorem exec_of_run {i : Instr} {s t : State} {n : Nat} (hi : i.slot = .command) (hr : Ready s) (hn : n < s.workBound)
    (hrun : run n (startBody i (accept (commandWord i) (.start i) s)) = t) (ht : t.phase = .idle) :
    exec i s = .next t := by
  obtain ⟨k, hk⟩ := Nat.exists_eq_add_of_lt hn
  have hstart : EngineRuns (accept (commandWord i) (.start i) s) := ⟨nofun, hr.2⟩
  subst hrun
  rw [exec_command hi, runCommand_of_idle i hr.1, hk, hstart.run_succ (n + k) rfl]
  exact congrArg _ ((run_add n k _).trans (run_of_idle k ht))

/-- `s` with the engine at `w`. -/
def withWork (w : Work) (s : State) : State := { s with work := w }

@[simp] theorem nodeAt_withWork (w : Work) (s : State) : (withWork w s).nodeAt = s.nodeAt :=
  funext (nodeAt_congr rfl)

/-- One piece of work from `w`, and then the others. -/
theorem EngineRuns.run_withWork {s : State} (h : EngineRuns s) (w : Work) (k : Nat)
    (hw : s.replyAt w.port = .answer) : run (k + 1) (withWork w s) = run k (tick (withWork w s)) :=
  EngineRuns.run_succ (s := withWork w s) ⟨h.busy, h.sched⟩ k hw

/-- `done` overwrites what the engine was at. -/
theorem phaseDone_withWork (w : Work) (s : State) : phaseDone (withWork w s) = phaseDone s := by
  unfold phaseDone withWork
  cases s.todo <;> rfl

/-! ## RDHDR -/

@[simp] theorem raise_bitsIn (e : ErrCode) (q : PortId) (s : State) : (raise e q s).bitsIn = s.bitsIn := by
  obtain ⟨f, n, d, h⟩ := raise_frame e q s
  rw [h]

@[simp] theorem raise_hdrBits (e : ErrCode) (q : PortId) (s : State) : (raise e q s).hdrBits = s.hdrBits := by
  obtain ⟨f, n, d, h⟩ := raise_frame e q s
  rw [h]

@[simp] theorem raise_treeValid (e : ErrCode) (q : PortId) (s : State) : (raise e q s).treeValid = s.treeValid := by
  obtain ⟨f, n, d, h⟩ := raise_frame e q s
  rw [h]

/-- A preamble of fewer than 32 bits (R143). -/
theorem getMagicTick_of_short {s : State} (ha : Answers s.bsrc.replies) (hlen : s.bsrcRest.length < 32) : ∃ pos,
    getMagicTick s = raise .formatMismatch .bsrc { s with
      bsrc := ⟨s.bsrc.bits, pos, s.bsrc.replies.tail⟩, draws := s.draws + 1 } := by
  obtain ⟨pos, hget⟩ := get_eos .formatMismatch (nextReply_of_answers ha) hlen
  exact ⟨pos, by rw [getMagicTick, hget]⟩

/-- A preamble that is another number (R94, R143). -/
theorem getMagicTick_of_other {s : State} (ha : Answers s.bsrc.replies) (hlen : 32 ≤ s.bsrcRest.length)
    (hnum : num (s.bsrcRest.take 32) ≠ 0xFACE8201) :
    getMagicTick s = raise .formatMismatch .none (bitsTaken 32 s) := by
  rw [getMagicTick, get_data .formatMismatch (nextReply_of_answers ha) hlen]
  exact if_neg hnum

/-- RDHDR that ends with its preamble. -/
theorem exec_rdhdr_of_preamble {s t : State} (hr : Ready s) (ha : Answers s.bsrc.replies)
    (hmagic : getMagicTick (rdhdrStart (accept (commandWord .rdhdr) (.start .rdhdr) s)) = t) (ht : t.phase = .idle) :
    exec .rdhdr s = .next t := by
  have hs : EngineRuns (rdhdrStart (accept (commandWord .rdhdr) (.start .rdhdr) s)) := ⟨nofun, hr.2⟩
  have hrun := hs.run_succ 0 (nextReply_of_answers ha)
  exact exec_of_run (i := .rdhdr) (n := 1) rfl hr (by unfold State.workBound; omega) (hrun.trans hmagic) ht

/-- Settles O38: the preamble is short (`getMagicTick_of_short`) or another number (`getMagicTick_of_other`). -/
theorem rdhdrRejectsOtherFormats : Obligations.RdhdrRejectsOtherFormats := by
  intro s hr ha
  refine ⟨fun hlen => ?_, fun hlen hnum => ?_⟩
  · obtain ⟨pos, hmagic⟩ := getMagicTick_of_short
      (s := rdhdrStart (accept (commandWord .rdhdr) (.start .rdhdr) s)) ha hlen
    refine ⟨_, exec_rdhdr_of_preamble hr ha hmagic rfl, rfl, rfl, rfl, ?_⟩
    rw [raise_bitsIn, raise_hdrBits, raise_treeValid]
    exact ⟨rfl, rfl, rfl, rfl⟩
  · have hmagic := getMagicTick_of_other
      (s := rdhdrStart (accept (commandWord .rdhdr) (.start .rdhdr) s)) ha hlen hnum
    refine ⟨_, exec_rdhdr_of_preamble hr ha hmagic rfl, rfl, rfl, rfl, ?_⟩
    rw [raise_bitsIn, raise_hdrBits, raise_treeValid]
    exact ⟨rfl, rfl, rfl, rfl⟩

/-! ## Writes to BSNK -/

/-- `s` after `k` transactions of BSNK, all answered, that wrote the bits `c`: counted in BITS_OUT (R140, R160). -/
def bitsPut (c : Bits) (k : Nat) (s : State) : State :=
  { s with
    bsnk := ⟨s.bsnk.bits ++ c, s.bsnk.replies.drop k⟩
    bitsOut := s.bitsOut + BitVec.ofNat 64 c.length }

/-- The same in the tree section, counted in HDR_BITS too (R141). -/
def treeBitsPut (c : Bits) (k : Nat) (s : State) : State :=
  { bitsPut c k s with hdrBits := s.hdrBits + BitVec.ofNat 32 c.length }

theorem treeBitsPut_treeBitsPut (c d : Bits) (k m : Nat) (s : State) :
    treeBitsPut d m (treeBitsPut c k s) = treeBitsPut (c ++ d) (k + m) s := by
  simp only [treeBitsPut, bitsPut, List.append_assoc, List.drop_drop, List.length_append, BitVec.ofNat_add,
    BitVec.add_assoc]

theorem put_of_answers {s : State} (c : Bits) (ha : Answers s.bsnk.replies) : put c s = .go () (bitsPut c 1 s) := by
  rw [put_ok c (nextReply_of_answers ha), bitsPut, List.drop_one]

theorem emit_of_answers {s : State} (c : Bits) (ha : Answers s.bsnk.replies) : emit c s = .go () (bitsPut c 1 s) := by
  rw [emit_ok c (nextReply_of_answers ha), bitsPut, List.drop_one]

theorem answers_bitsPut {s : State} (c : Bits) (k : Nat) (ha : Answers s.bsnk.replies) :
    Answers (bitsPut c k s).bsnk.replies :=
  ha.drop k

theorem answers_treeBitsPut {s : State} (c : Bits) (k : Nat) (ha : Answers s.bsnk.replies) :
    Answers (treeBitsPut c k s).bsnk.replies :=
  ha.drop k

theorem EngineRuns.bitsPut {s : State} (h : EngineRuns s) (c : Bits) (k : Nat) : EngineRuns (bitsPut c k s) :=
  ⟨h.busy, h.sched⟩

theorem EngineRuns.treeBitsPut {s : State} (h : EngineRuns s) (c : Bits) (k : Nat) : EngineRuns (treeBitsPut c k s) :=
  ⟨h.busy, h.sched⟩

@[simp] theorem nodeAt_bitsPut (c : Bits) (k : Nat) (s : State) : (bitsPut c k s).nodeAt = s.nodeAt :=
  funext (nodeAt_congr rfl)

@[simp] theorem nodeAt_treeBitsPut (c : Bits) (k : Nat) (s : State) : (treeBitsPut c k s).nodeAt = s.nodeAt :=
  funext (nodeAt_congr rfl)

theorem bitsPut_withWork (c : Bits) (k : Nat) (w : Work) (s : State) :
    bitsPut c k (withWork w s) = withWork w (bitsPut c k s) := rfl

theorem treeBitsPut_withWork (c : Bits) (k : Nat) (w : Work) (s : State) :
    treeBitsPut c k (withWork w s) = withWork w (treeBitsPut c k s) := rfl

/-! ## WRHDR -/

/-- A tree section has eleven bits for every leaf but one (R91). -/
theorem HTree.length_wire_add_one (t : HTree) : t.wire.length + 1 = 11 * t.leaves := by
  induction t with
  | leaf v => simp [HTree.wire, HTree.leaves]
  | node l r hl hr => simp only [HTree.wire, HTree.leaves, List.length_cons, List.length_append]; omega

theorem serNext_withWork (st : List NodeIdx) (w : Work) (s : State) : serNext st (withWork w s) = serNext st s := by
  cases st with
  | nil => exact phaseDone_withWork w s
  | cons i st => rfl

section

variable {s : State} (ha : Answers s.bsnk.replies)
include ha

/-- The flag of an internal node is written (R140). -/
theorem putFlagTick_node {i : NodeIdx} (rest : List NodeIdx) (hn : (s.nodeAt i).isLeaf = false) :
    putFlagTick (i :: rest) s = serNext ((s.nodeAt i).left :: (s.nodeAt i).right :: rest) (treeBitsPut [false] 1 s) := by
  simp only [putFlagTick, hn, put_of_answers _ ha]
  rfl

/-- The flag of a leaf is written (R140). -/
theorem putFlagTick_leaf {i : NodeIdx} (rest : List NodeIdx) (hn : (s.nodeAt i).isLeaf = true) :
    putFlagTick (i :: rest) s = withWork (.putValue (i :: rest)) (treeBitsPut [true] 1 s) := by
  simp only [putFlagTick, hn, put_of_answers _ ha]
  rfl

/-- The value bits of a leaf are written (R140). -/
theorem putValueTick_leaf (i : NodeIdx) (rest : List NodeIdx) :
    putValueTick (i :: rest) s = serNext rest (treeBitsPut (bitsN 9 (s.nodeAt i).value.toNat) 1 s) := by
  simp only [putValueTick, put_of_answers _ ha, treeBitsPut, length_bitsN]
  rfl

variable (h : EngineRuns s)
include h

/-- The serializer at an internal node: a transaction for its flag, then its two subtrees (R140). -/
theorem run_putFlag_node {i : NodeIdx} (rest : List NodeIdx) (k : Nat) (hn : (s.nodeAt i).isLeaf = false) :
    run (k + 1) (withWork (.putFlag (i :: rest)) s) =
      run k (withWork (.putFlag ((s.nodeAt i).left :: (s.nodeAt i).right :: rest)) (treeBitsPut [false] 1 s)) := by
  rw [h.run_withWork (.putFlag (i :: rest)) k (nextReply_of_answers ha)]
  exact congrArg (run k) (putFlagTick_node (s := withWork (.putFlag (i :: rest)) s) ha rest hn)

/-- The serializer at a leaf: a transaction for its flag and one for its value bits (R140). -/
theorem run_putFlag_leaf {i : NodeIdx} (rest : List NodeIdx) (hn : (s.nodeAt i).isLeaf = true) :
    run 2 (withWork (.putFlag (i :: rest)) s) =
      serNext rest (treeBitsPut (HTree.leaf (s.nodeAt i).value).wire 2 s) := by
  have ha' := answers_treeBitsPut [true] 1 ha
  have hflag : tick (withWork (.putFlag (i :: rest)) s) =
      withWork (.putValue (i :: rest)) (treeBitsPut [true] 1 s) :=
    putFlagTick_leaf (s := withWork (.putFlag (i :: rest)) s) ha rest hn
  have hvalue : tick (withWork (.putValue (i :: rest)) (treeBitsPut [true] 1 s)) = _ :=
    putValueTick_leaf (s := withWork (.putValue (i :: rest)) (treeBitsPut [true] 1 s)) ha' i rest
  rw [h.run_withWork (.putFlag (i :: rest)) 1 (nextReply_of_answers ha), hflag,
    (h.treeBitsPut _ _).run_withWork (.putValue (i :: rest)) 0 (nextReply_of_answers ha'), hvalue, nodeAt_withWork,
    nodeAt_treeBitsPut, treeBitsPut_withWork, serNext_withWork, treeBitsPut_treeBitsPut]
  rfl

end

/-- The serializer writes a subtree and goes on with the others (R140). -/
theorem run_putFlag {pool : NodeIdx → Node} {i : NodeIdx} {t : HTree} {ids : List NodeIdx} (ht : IsTree pool i t ids)
    {s : State} (rest : List NodeIdx) (hp : s.nodeAt = pool) (h : EngineRuns s) (ha : Answers s.bsnk.replies) :
    run (t.size + t.leaves) (withWork (.putFlag (i :: rest)) s) =
      serNext rest (treeBitsPut t.wire (t.size + t.leaves) s) := by
  induction ht generalizing s rest with
  | leaf i v hl hv =>
    subst hp
    rw [← hv]
    exact run_putFlag_leaf ha h rest hl
  | node i l r il ir hn htl htr ihl ihr =>
    subst hp
    have hk : (HTree.node l r).size + (HTree.node l r).leaves = (l.size + l.leaves) + (r.size + r.leaves) + 1 := by
      simp only [HTree.size, HTree.leaves]
      omega
    have ha' := answers_treeBitsPut [false] 1 ha
    have h' := h.treeBitsPut [false] 1
    have hl := ihl ((s.nodeAt i).right :: rest) (nodeAt_treeBitsPut [false] 1 s) h' ha'
    have hr := ihr rest (nodeAt_treeBitsPut l.wire (l.size + l.leaves) (treeBitsPut [false] 1 s))
      (h'.treeBitsPut _ _) (answers_treeBitsPut _ _ ha')
    rw [hk, run_putFlag_node ha h rest _ hn, run_add, hl]
    refine hr.trans ?_
    rw [treeBitsPut_treeBitsPut, treeBitsPut_treeBitsPut, Nat.add_comm 1]
    rfl

/-- The body of WRHDR, from its start to its `done` (R140, R141). -/
theorem run_wrhdrStart {s : State} {t : HTree} (ht : HoldsTree s t) (h : EngineRuns s)
    (ha : Answers s.bsnk.replies) :
    run (t.size + t.leaves + 1) (wrhdrStart s) =
      phaseDone (treeBitsPut t.wire (t.size + t.leaves) (bitsPut (bitsN 32 0xFACE8201) 1 s)) := by
  obtain ⟨ids, htree, -⟩ := ht.tree
  have hstart : wrhdrStart s = withWork .putMagic s := if_pos ht.valid
  have hmagic : tick (withWork .putMagic s) = withWork (.putFlag [s.root]) (bitsPut (bitsN 32 0xFACE8201) 1 s) := by
    show putMagicTick _ = _
    rw [putMagicTick, put_of_answers _ (by exact ha)]
    rfl
  rw [hstart, h.run_withWork .putMagic _ (nextReply_of_answers ha), hmagic]
  exact run_putFlag htree [] (nodeAt_bitsPut _ _ s) (h.bitsPut _ _) (answers_bitsPut _ _ ha)

/-- Settles O36: the run of the body (`run_wrhdrStart`), whose `done` ends the command. -/
theorem wrhdrWritesMagicAndTree : Obligations.WrhdrWritesMagicAndTree := by
  intro s tree hr ht ha
  have hwire := tree.length_wire_add_one
  have hsize := tree.size_add_one
  obtain ⟨ids, htree, -, hids, -⟩ := ht.tree
  have hcap : s.nodeCount.toNat ≤ 513 := ht.capacity
  rw [← hids, htree.length_ids] at hcap
  have hbound : tree.size + tree.leaves + 1 < s.workBound := by unfold State.workBound; omega
  have hrun := run_wrhdrStart (s := accept (commandWord .wrhdr) (.start .wrhdr) s) (t := tree)
    (ht.congr rfl) ⟨nofun, hr.2⟩ ha
  refine ⟨by omega, (exec_of_run (i := .wrhdr) rfl hr hbound hrun rfl).trans ?_⟩
  rw [phaseDone_last (by rfl)]
  simp only [treeBitsPut, bitsPut, accept, complete, finished, length_bitsN, BitVec.ofNat_add, zero_add,
    List.drop_drop, Nat.add_assoc]
  rfl

/-! ## ENCODE -/

/-- `s` after ENCODE has read its next byte: consumed, and counted in SYM_IN (R161). -/
def byteTaken (s : State) : State :=
  { s with src := ⟨s.src.data, s.src.pos + 1, s.src.replies.tail⟩, symIn := s.symIn + 1 }

/-- `s` after ENCODE has met the end of the input (R161). -/
def endTaken (s : State) : State := { s with src := ⟨s.src.data, s.src.pos, s.src.replies.tail⟩ }

/-- `s` after ENCODE has read the bytes `bs` and written their codes (R160, R161). -/
def bytesEncoded (bs : List Byte) (s : State) : State :=
  { bitsPut (bs.map s.codeOf).flatten bs.length s with
    src := ⟨s.src.data, s.src.pos + bs.length, s.src.replies.drop bs.length⟩
    symIn := s.symIn + BitVec.ofNat 32 bs.length }

theorem bytesEncoded_nil (s : State) : bytesEncoded [] s = s := by
  simp [bytesEncoded, bitsPut]

theorem bytesEncoded_cons (b : Byte) (bs : List Byte) (s : State) :
    bytesEncoded bs (bitsPut (s.codeOf b) 1 (byteTaken s)) = bytesEncoded (b :: bs) s := by
  have hsym : s.symIn + 1 + BitVec.ofNat 32 bs.length = s.symIn + BitVec.ofNat 32 (bs.length + 1) := by
    rw [BitVec.add_assoc, BitVec.ofNat_add, BitVec.add_comm 1]
    rfl
  have hpos : s.src.pos + 1 + bs.length = s.src.pos + (bs.length + 1) := by omega
  simp only [bytesEncoded, bitsPut, byteTaken, hsym, hpos, List.map_cons, List.flatten_cons, List.length_cons,
    List.length_append, List.append_assoc, List.drop_drop, List.drop_tail, Nat.add_comm 1, BitVec.ofNat_add,
    BitVec.add_assoc]
  rfl

/-- ENCODE goes on to emit a code (R161). -/
theorem emitCode_of_ne_nil {c : Bits} (hc : c ≠ []) (last : Bool) (s : State) :
    emitCode c last s = withWork (.emit c last) s :=
  if_neg (by simpa using hc)

section

variable {s : State} (h : EngineRuns s) (hk : Answers s.bsnk.replies)
include h hk

/-- A code is emitted (R160). -/
theorem run_emit (c : Bits) (last : Bool) (k : Nat) :
    run (k + 1) (withWork (.emit c last) s) =
      run k (if last then phaseDone (bitsPut c 1 s) else withWork .encodeRead (bitsPut c 1 s)) := by
  rw [h.run_withWork (.emit c last) k (nextReply_of_answers hk)]
  congr 1
  show emitTick c last (withWork (.emit c last) s) = _
  rw [emitTick, emit_of_answers (s := withWork (.emit c last) s) c hk, bitsPut_withWork, ← phaseDone_withWork (.emit c last)]
  rfl

variable (ha : Answers s.src.replies)
include ha

/-- One byte of ENCODE's loop (R161). -/
theorem run_encodeRead_byte {b : Byte} (k : Nat) (hb : s.src.data[s.src.pos]? = some b) (hc : s.codeOf b ≠ []) :
    run (k + 2) (withWork .encodeRead s) = run k (withWork .encodeRead (bitsPut (s.codeOf b) 1 (byteTaken s))) := by
  have hread : tick (withWork .encodeRead s) = withWork (.emit (s.codeOf b) false) (byteTaken s) := by
    show encodeReadTick (withWork .encodeRead s) = _
    rw [encodeReadTick, srcRead_data (s := withWork .encodeRead s) (nextReply_of_answers ha) hb]
    exact emitCode_of_ne_nil hc false _
  rw [h.run_withWork .encodeRead (k + 1) (nextReply_of_answers ha), hread]
  exact run_emit (s := byteTaken s) ⟨h.busy, h.sched⟩ hk (s.codeOf b) false k

/-- The end of ENCODE's loop: the sentinel's code, and the body is done (R161). -/
theorem run_encodeRead_end (hb : s.src.data.length ≤ s.src.pos) (hc : s.eofCode ≠ []) :
    run 2 (withWork .encodeRead s) = phaseDone (bitsPut s.eofCode 1 (endTaken s)) := by
  have hread : tick (withWork .encodeRead s) = withWork (.emit s.eofCode true) (endTaken s) := by
    show encodeReadTick (withWork .encodeRead s) = _
    rw [encodeReadTick, srcRead_eos (s := withWork .encodeRead s) (nextReply_of_answers ha) hb]
    exact emitCode_of_ne_nil hc true _
  rw [h.run_withWork .encodeRead 1 (nextReply_of_answers ha), hread]
  exact run_emit (s := endTaken s) ⟨h.busy, h.sched⟩ hk s.eofCode true 0

end

/-- ENCODE's loop over the next bytes, all of which have codes (R161). -/
theorem run_encodeRead (bs post : List Byte) {s : State} (h : EngineRuns s) (ha : Answers s.src.replies)
    (hk : Answers s.bsnk.replies) (hd : s.src.data.drop s.src.pos = bs ++ post) (hc : ∀ b ∈ bs, s.codeOf b ≠ []) :
    run (2 * bs.length) (withWork .encodeRead s) = withWork .encodeRead (bytesEncoded bs s) := by
  induction bs generalizing s with
  | nil => rw [bytesEncoded_nil]; rfl
  | cons b bs ih =>
    have hb : s.src.data[s.src.pos]? = some b := by rw [← List.head?_drop, hd]; rfl
    have hd' : s.src.data.drop (s.src.pos + 1) = bs ++ post := by rw [← List.tail_drop, hd]; rfl
    rw [List.length_cons, Nat.mul_succ, run_encodeRead_byte h hk ha _ hb (hc b List.mem_cons_self),
      ih (s := bitsPut (s.codeOf b) 1 (byteTaken s)) ⟨h.busy, h.sched⟩ ha.tail (hk.drop 1) hd'
        fun c hm => hc c (List.mem_cons_of_mem b hm), bytesEncoded_cons]

/-- `s` after ENCODE's `SrcRewind` (R161). -/
def rewound (s : State) : State := { s with src := ⟨s.src.data, 0, s.src.replies.tail⟩ }

/-- ENCODE's first piece of work rewinds SRC (R161). -/
theorem run_encode_rewind {s : State} (k : Nat) (h : EngineRuns s) (hv : s.codesValid = true)
    (ha : Answers s.src.replies) : run (k + 1) (encodeStart s) = run k (withWork .encodeRead (rewound s)) := by
  have hstart : encodeStart s = withWork .rewind s := if_pos hv
  rw [hstart, h.run_withWork .rewind k (nextReply_of_answers ha)]
  congr 1
  show rewindTick (withWork .rewind s) = _
  rw [rewindTick, srcRewind_ok (s := withWork .rewind s) (nextReply_of_answers ha)]
  rfl

/-- The body of ENCODE, from its start to its `done` (R161). -/
theorem run_encodeStart {s : State} (h : EngineRuns s) (hv : s.codesValid = true) (ha : Answers s.src.replies)
    (hk : Answers s.bsnk.replies) (hc : ∀ b ∈ s.src.data, s.codeOf b ≠ []) (he : s.eofCode ≠ []) :
    run (2 * s.src.data.length + 2 + 1) (encodeStart s) = phaseDone { s with
      symIn := s.symIn + BitVec.ofNat 32 s.src.data.length
      bitsOut := s.bitsOut + BitVec.ofNat 64 ((s.src.data.map s.codeOf).flatten ++ s.eofCode).length
      src := ⟨s.src.data, s.src.data.length, s.src.replies.drop (s.src.data.length + 2)⟩
      bsnk := ⟨s.bsnk.bits ++ ((s.src.data.map s.codeOf).flatten ++ s.eofCode),
        s.bsnk.replies.drop (s.src.data.length + 1)⟩ } := by
  have h' : EngineRuns (rewound s) := ⟨h.busy, h.sched⟩
  have hloop := run_encodeRead s.src.data [] h' ha.tail hk (List.append_nil _).symm hc
  have hend := run_encodeRead_end (s := bytesEncoded s.src.data (rewound s)) ⟨h.busy, h.sched⟩ (hk.drop _)
    (ha.tail.drop _) (Nat.le_add_left ..) he
  rw [run_encode_rewind _ h hv ha, run_add, hloop, hend]
  have heof : (bytesEncoded s.src.data (rewound s)).eofCode = s.eofCode := rfl
  rw [heof]
  simp only [bytesEncoded, endTaken, rewound, bitsPut, List.append_assoc, List.length_append, List.drop_drop, List.drop_tail,
    List.tail_drop, BitVec.ofNat_add, BitVec.add_assoc, Nat.zero_add]
  rfl

/-- Settles O42: the run of the body (`run_encodeStart`), whose `done` ends the command. -/
theorem encodeWritesCodesAndSentinel : Obligations.EncodeWritesCodesAndSentinel := by
  intro s hr hv ha hk hc he
  have hbound : 2 * s.src.data.length + 2 + 1 < s.workBound := by unfold State.workBound; omega
  have hrun := run_encodeStart (s := accept (commandWord .encode) (.start .encode) s) ⟨nofun, hr.2⟩ hv ha hk hc he
  refine (exec_of_run (i := .encode) rfl hr hbound hrun rfl).trans ?_
  rw [phaseDone_last (by rfl)]
  simp only [accept, complete, finished, zero_add]
  rfl

end Sys2Proof.Machine

/-! # The runs of COUNT

What COUNT does from its start to its `done` or to COUNT_OVERFLOW, byte by byte (R100), of any BUSY state. -/

namespace Sys2Proof.Machine

/-! ## The counters -/

/-- The counters of the bytes `bs`, in 32-bit words (R37, R100). -/
def byteCounts (bs : List Byte) : Vector Word 256 :=
  Vector.ofFn fun b => BitVec.ofNat 32 (bs.count (BitVec.ofNat 8 b))

theorem byteCounts_nil : byteCounts [] = Vector.replicate 256 0 := by
  ext i hi
  simp [byteCounts]

theorem getElem_byteCounts (bs : List Byte) (b : Byte) : (byteCounts bs)[b.toNat] = BitVec.ofNat 32 (bs.count b) := by
  simp [byteCounts]

/-- One more byte increments its counter. -/
theorem byteCounts_concat (bs : List Byte) (b : Byte) :
    (byteCounts bs).set b.toNat (BitVec.ofNat 32 (bs.count b) + 1) = byteCounts (bs ++ [b]) := by
  refine Vector.ext fun i hi => ?_
  by_cases h : b.toNat = i
  · subst h
    simp [byteCounts, BitVec.ofNat_add]
  · have hne : b ≠ BitVec.ofNat 8 i := by
      rintro rfl
      exact h (by rw [BitVec.toNat_ofNat, Nat.mod_eq_of_lt hi])
    rw [Vector.getElem_set_ne _ _ h]
    simp only [byteCounts, Vector.getElem_ofFn, List.count_append, List.count_singleton, beq_iff_eq, if_neg hne,
      Nat.add_zero]

/-- `s` after COUNT has cleared its flags and taken the bytes `bs` (R100). -/
def bytesCounted (bs : List Byte) (s : State) : State :=
  { s with
    freqValid := false, pqActive := false, treeValid := false, codesValid := false
    freq := byteCounts bs
    symIn := s.symIn + BitVec.ofNat 32 bs.length
    src := ⟨s.src.data, s.src.pos + bs.length, s.src.replies.drop bs.length⟩ }

theorem countStart_eq (s : State) : countStart s = withWork .countRead (bytesCounted [] s) := by
  simp [countStart, withWork, bytesCounted, byteCounts_nil]

theorem freqOf_bytesCounted (bs : List Byte) (b : Byte) (s : State) :
    (bytesCounted bs s).freqOf b = BitVec.ofNat 32 (bs.count b) :=
  getElem_byteCounts bs b

theorem bytesCounted_concat (bs : List Byte) (b : Byte) (s : State) :
    (byteTaken (bytesCounted bs s)).setFreq b ((bytesCounted bs s).freqOf b + 1) = bytesCounted (bs ++ [b]) s := by
  rw [freqOf_bytesCounted]
  simp only [State.setFreq, byteTaken, bytesCounted, byteCounts_concat, List.length_append, List.length_singleton,
    List.tail_drop, BitVec.ofNat_add, BitVec.add_assoc, Nat.add_assoc]
  rfl

/-- An error of COUNT after its start leaves FREQ unspecified (R100, R193, R194). -/
theorem raise_of_counting (e : ErrCode) (q : PortId) {s : State} (hw : s.work = .countRead) :
    raise e q s = { s.freqUnspecified with
      errCode := e, errInfo := ⟨q, s.phaseOpc⟩, err := true, done := true
      phase := .idle, work := .none, todo := [] } := by
  simp only [raise, spoil, hw]

/-! ## One read -/

/-- The byte that follows the next bytes `bs` of SRC. -/
theorem src_getElem?_of_drop {s : State} {bs post : List Byte} {b : Byte}
    (hd : s.src.data.drop s.src.pos = bs ++ b :: post) : s.src.data[s.src.pos + bs.length]? = some b := by
  rw [← List.getElem?_drop, hd]
  simp

section

variable {s : State} (ha : Answers s.src.replies)
include ha

/-- COUNT reads a byte whose counter can still be incremented (R100). -/
theorem countTick_byte {b : Byte} (hb : s.src.data[s.src.pos]? = some b) (hc : (s.freqOf b).toNat ≠ s.countMax) :
    countTick s = (byteTaken s).setFreq b (s.freqOf b + 1) := by
  rw [countTick, srcRead_data (nextReply_of_answers ha) hb]
  exact if_neg hc

/-- COUNT reads a byte whose counter is at its largest value (R100). -/
theorem countTick_overflow {b : Byte} (hb : s.src.data[s.src.pos]? = some b) (hc : (s.freqOf b).toNat = s.countMax) :
    countTick s = raise .countOverflow .none (byteTaken s) := by
  rw [countTick, srcRead_data (nextReply_of_answers ha) hb]
  exact if_pos hc

/-- COUNT meets the end of the input (R100). -/
theorem countTick_end (hb : s.src.data.length ≤ s.src.pos) :
    countTick s = phaseDone { endTaken s with freqValid := true } := by
  rw [countTick, srcRead_eos (nextReply_of_answers ha) hb]
  rfl

end

/-! ## The loop -/

section

variable {s : State} (h : EngineRuns s) (ha : Answers s.src.replies)
include h ha

/-- One piece of work of COUNT's loop after the bytes `bs`. -/
theorem run_bytesCounted (bs : List Byte) : run 1 (withWork .countRead (bytesCounted bs s)) =
    countTick (withWork .countRead (bytesCounted bs s)) :=
  EngineRuns.run_withWork (s := bytesCounted bs s) ⟨h.busy, h.sched⟩ .countRead 0 (nextReply_of_answers (ha.drop _))

/-- COUNT takes the next bytes, none of which occurs among them more often than its counter can say (R100). -/
theorem run_countStart_bytes (bs post : List Byte) (hd : s.src.data.drop s.src.pos = bs ++ post)
    (hc : ∀ b, bs.count b < 2 ^ s.params.wCount) :
    run bs.length (countStart s) = withWork .countRead (bytesCounted bs s) := by
  induction bs using List.reverseRecOn generalizing post with
  | nil => exact countStart_eq s
  | append_singleton bs b ih =>
    have hd' : s.src.data.drop s.src.pos = bs ++ b :: post := by rw [hd, List.append_assoc]; rfl
    have hcount : (bs ++ [b]).count b = bs.count b + 1 := by simp
    have hroom : ((bytesCounted bs s).freqOf b).toNat ≠ s.countMax := by
      have hb := hc b
      have hle := Nat.mod_le (bs.count b) (2 ^ 32)
      rw [freqOf_bytesCounted, BitVec.toNat_ofNat, State.countMax]
      omega
    have hbytes := ih (b :: post) hd' fun c =>
      Nat.lt_of_le_of_lt ((List.sublist_append_left bs [b]).count_le c) (hc c)
    rw [List.length_append, List.length_singleton, run_add, hbytes, run_bytesCounted h ha,
      countTick_byte (s := withWork .countRead (bytesCounted bs s)) (ha.drop _) (src_getElem?_of_drop hd') hroom,
      ← bytesCounted_concat]
    rfl

/-- The body of COUNT, from its start to its `done` (R100, R101). -/
theorem run_countStart (bs : List Byte) (hd : s.src.data.drop s.src.pos = bs)
    (hc : ∀ b, bs.count b < 2 ^ s.params.wCount) :
    run (bs.length + 1) (countStart s) = phaseDone { bytesCounted bs s with
      freqValid := true
      src := ⟨s.src.data, s.src.pos + bs.length, s.src.replies.drop (bs.length + 1)⟩ } := by
  have hend : s.src.data.length ≤ s.src.pos + bs.length := by
    rw [← hd, List.length_drop]
    omega
  have hbytes := run_countStart_bytes h ha bs [] (by rw [hd, List.append_nil]) hc
  rw [run_add, hbytes, run_bytesCounted h ha,
    countTick_end (s := withWork .countRead (bytesCounted bs s)) (ha.drop _) hend, ← List.tail_drop]
  exact phaseDone_withWork .countRead { endTaken (bytesCounted bs s) with freqValid := true }

/-- The body of COUNT, from its start to the byte that would pass the largest count (R100). -/
theorem run_countStart_overflow (pre post : List Byte) (b : Byte) (hw : s.params.wCount ≤ 32)
    (hd : s.src.data.drop s.src.pos = pre ++ b :: post) (hc : ∀ c, pre.count c < 2 ^ s.params.wCount)
    (hb : pre.count b = 2 ^ s.params.wCount - 1) :
    run (pre.length + 1) (countStart s) =
      raise .countOverflow .none (byteTaken (withWork .countRead (bytesCounted pre s))) := by
  have hfull : ((bytesCounted pre s).freqOf b).toNat = s.countMax := by
    have hlt : pre.count b < 2 ^ 32 := (hc b).trans_le (Nat.pow_le_pow_right two_pos hw)
    rw [freqOf_bytesCounted, BitVec.toNat_ofNat, Nat.mod_eq_of_lt hlt, hb]
    rfl
  rw [run_add, run_countStart_bytes h ha pre (b :: post) hd hc, run_bytesCounted h ha]
  exact countTick_overflow (s := withWork .countRead (bytesCounted pre s)) (ha.drop _) (src_getElem?_of_drop hd)
    hfull

end

/-! ## The command -/

/-- Settles O26: the run of the body (`run_countStart`), whose `done` ends the command. -/
theorem countCountsEveryByte : Obligations.CountCountsEveryByte := by
  intro s hr ha bytes hc
  have hlen : bytes.length ≤ s.src.data.length := by
    rw [List.length_drop]
    omega
  have hbound : bytes.length + 1 < s.workBound := by unfold State.workBound; omega
  have hrun := run_countStart (s := accept (commandWord .count) (.start .count) s) ⟨nofun, hr.2⟩ ha bytes rfl hc
  refine (exec_of_run (i := .count) rfl hr hbound hrun rfl).trans ?_
  rw [phaseDone_last (by rfl)]
  simp only [bytesCounted, accept, complete, finished, zero_add]
  rfl

/-- Settles O27: the run of the body (`run_countStart_overflow`), whose error ends the command. -/
theorem countOverflows : Obligations.CountOverflows := by
  intro s pre post b hr ha hw hd hc hb
  have hlen : pre.length < s.src.data.length := by
    have hlen' := congrArg List.length hd
    rw [List.length_drop, List.length_append, List.length_cons] at hlen'
    omega
  have hbound : pre.length + 1 < s.workBound := by unfold State.workBound; omega
  have hrun := run_countStart_overflow (s := accept (commandWord .count) (.start .count) s) ⟨nofun, hr.2⟩ ha
    pre post b hw hd hc hb
  refine ⟨s.freqUnspecified.freq, s.draws + 1, (exec_of_run (i := .count) rfl hr hbound hrun rfl).trans ?_⟩
  rw [raise_of_counting _ _ (by rfl)]
  simp only [byteTaken, withWork, bytesCounted, accept, failed, finished, List.tail_drop, BitVec.ofNat_add, zero_add]
  rfl

end Sys2Proof.Machine

/-! # The commands of the tree builder

What BUILD_INIT, BUILD_MERGE and BUILD leave (R114 to R116), each told by its body run from the state before acceptance, since no
builder reads what acceptance changes (`withBuilderOf`); and the builds of two states with the same FREQ side by side
(`SameBuild`, R117). -/

namespace Sys2Proof.Machine

/-! ## The queue and the merge -/

/-- A non-empty list has an index of least key (R112). -/
theorem leastKey_least (s : State) {l : List NodeIdx} (h : l ≠ []) : ∃ i, i ∈ l ∧ (∀ j ∈ l, j ≠ i → KeyLt s i j) ∧
    s.leastKey l = some i := by
  obtain ⟨j, t, rfl⟩ := List.exists_cons_of_ne_nil h
  obtain ⟨i, hi, hmem, hleast⟩ := leastKey_spec s j t
  exact ⟨i, hmem, hleast, hi⟩

/-- Settles O28: the index taken out is the one of least key (`leastKey_least`). -/
theorem extractMinTakesTheLeastKey : Obligations.ExtractMinTakesTheLeastKey := by
  intro s hq
  obtain ⟨i, hmem, hleast, hi⟩ := leastKey_least s hq
  refine ⟨i, hmem, hleast, ?_⟩
  rw [pqExtractMin, hi]
  rfl

theorem keyLess_congr {s t : State} {i j : NodeIdx} (hi : s.nodeAt i = t.nodeAt i) (hj : s.nodeAt j = t.nodeAt j) :
    s.keyLess i j = t.keyLess i j := by
  unfold State.keyLess
  rw [hi, hj]

/-- The least key is read from the entries of the list alone (R110, R112). -/
theorem leastKey_congr {s t : State} {l : List NodeIdx} (h : ∀ i ∈ l, s.nodeAt i = t.nodeAt i) :
    s.leastKey l = t.leastKey l := by
  induction l with
  | nil => rfl
  | cons i l ih =>
    have htail : ∀ j ∈ l, s.nodeAt j = t.nodeAt j := fun j hj => h j (List.mem_cons_of_mem i hj)
    rw [State.leastKey, State.leastKey, ih htail]
    by_cases hl : l = []
    · rw [hl]
      rfl
    · obtain ⟨m, hmem, -, hm⟩ := leastKey_least t hl
      simp only [hm, keyLess_congr (htail m hmem) (h i List.mem_cons_self)]

/-- With two nodes queued there are a least and a next least key (R113). -/
theorem leastKeys_of_two {s : State} (h2 : 2 ≤ s.pq.length) : ∃ a b,
    a ∈ s.pq ∧ (∀ j ∈ s.pq, j ≠ a → KeyLt s a j) ∧ s.leastKey s.pq = some a ∧
    b ∈ s.pq.erase a ∧ (∀ j ∈ s.pq.erase a, j ≠ b → KeyLt s b j) ∧ s.leastKey (s.pq.erase a) = some b := by
  obtain ⟨a, ha, hleast, hexa⟩ := leastKey_least s (List.length_pos_iff.mp (by omega : 0 < s.pq.length))
  have hlen := List.length_erase_of_mem ha
  obtain ⟨b, hb, hnext, hexb⟩ := leastKey_least s (List.length_pos_iff.mp (by omega : 0 < (s.pq.erase a).length))
  exact ⟨a, b, ha, hleast, hexa, hb, hnext, hexb⟩

/-- A merge makes the two of least key the children of the next pool entry (R113). -/
theorem merge_eq {s : State} {a b : NodeIdx} (ha : s.leastKey s.pq = some a) (hb : s.leastKey (s.pq.erase a) = some b) :
    merge s = allocQueued (s.mergedNode a b) { s with pq := (s.pq.erase a).erase b } := by
  have hsame : ({ s with pq := s.pq.erase a } : State).leastKey (s.pq.erase a) = s.leastKey (s.pq.erase a) :=
    leastKey_congr fun i _ => nodeAt_congr rfl i
  simp only [merge, pqExtractMin, ha, Option.map_some, hsame, hb]
  rfl

/-! ## Bodies and acceptance -/

/-- `t` with all that the builders write as `u` has it: `BuilderOnly s t` says that `t` is `s.withBuilderOf t`. -/
def State.withBuilderOf (t u : State) : State :=
  { t with
    node := u.node, root := u.root, nodeCount := u.nodeCount, leafCount := u.leafCount, pq := u.pq
    pqActive := u.pqActive, treeValid := u.treeValid, treeSrc := u.treeSrc, codesValid := u.codesValid }

theorem pqExtractMin_withBuilderOf (t u : State) :
    pqExtractMin (t.withBuilderOf u) = (pqExtractMin u).map fun p => (p.1, t.withBuilderOf p.2) := by
  have hl : (t.withBuilderOf u).leastKey u.pq = u.leastKey u.pq := leastKey_congr fun i _ => nodeAt_congr rfl i
  show ((t.withBuilderOf u).leastKey u.pq).map _ = _
  rw [hl, pqExtractMin, Option.map_map]
  rfl

theorem merge_withBuilderOf (t u : State) : merge (t.withBuilderOf u) = t.withBuilderOf (merge u) := by
  unfold merge
  rw [pqExtractMin_withBuilderOf]
  cases pqExtractMin u with
  | none => rfl
  | some p =>
    obtain ⟨a, v⟩ := p
    simp only [Option.map_some, pqExtractMin_withBuilderOf]
    cases pqExtractMin v with
    | none => rfl
    | some p => rfl

theorem latchRoot_withBuilderOf (t u : State) : latchRoot (t.withBuilderOf u) = t.withBuilderOf (latchRoot u) := by
  by_cases h : u.pq.length = 1
  · obtain ⟨r, hr⟩ := List.length_eq_one_iff.mp h
    rw [latchRoot_of_one hr, latchRoot_of_one (s := t.withBuilderOf u) hr]
    rfl
  · rw [latchRoot_of_more h, latchRoot_of_more (s := t.withBuilderOf u) h]

theorem buildMergeBody_withBuilderOf (t u : State) :
    buildMergeBody (t.withBuilderOf u) = t.withBuilderOf (buildMergeBody u) := by
  rw [buildMergeBody, merge_withBuilderOf, latchRoot_withBuilderOf]
  rfl

theorem buildLoop_of_active (k : Nat) {s : State} (h : s.pqActive = true) :
    buildLoop (k + 1) s = buildLoop k (buildMergeBody s) := if_pos h

theorem buildLoop_withBuilderOf (k : Nat) (t u : State) :
    buildLoop k (t.withBuilderOf u) = t.withBuilderOf (buildLoop k u) := by
  induction k generalizing u with
  | zero => rfl
  | succ k ih =>
    cases h : u.pqActive with
    | true => rw [buildLoop_of_active _ h, buildLoop_of_active (s := t.withBuilderOf u) _ h, buildMergeBody_withBuilderOf, ih]
    | false => rw [buildLoop_of_inactive _ h, buildLoop_of_inactive (s := t.withBuilderOf u) _ h]

/-- BUILD_INIT's body reads FREQ and the pool alone. -/
theorem buildInitBody_accept (w : Word) (k : Work) (s : State) :
    buildInitBody (accept w k s) = (accept w k s).withBuilderOf (buildInitBody s) := by
  rw [buildInitBody_eq, buildInitBody_eq]
  rfl

theorem buildMergeBody_accept (w : Word) (k : Work) (s : State) :
    buildMergeBody (accept w k s) = (accept w k s).withBuilderOf (buildMergeBody s) :=
  buildMergeBody_withBuilderOf (accept w k s) s

theorem buildBody_accept (w : Word) (k : Work) (s : State) :
    buildBody (accept w k s) = (accept w k s).withBuilderOf (buildBody s) := by
  rw [buildBody, buildInitBody_accept]
  exact buildLoop_withBuilderOf _ _ _

theorem buildMergeBody_finished (o : Byte) (s : State) :
    buildMergeBody (finished o s) = (finished o s).withBuilderOf (buildMergeBody s) :=
  buildMergeBody_withBuilderOf (finished o s) s

/-- `done` after a builder's body leaves what `finished` says of the body run without acceptance. -/
theorem phaseDone_builder {w : Word} {k : Work} {s t : State} (h : BuilderOnly s t) :
    phaseDone ((accept w k s).withBuilderOf t) = finished (w.extractLsb' 0 8) t := by
  rw [h]
  rfl

/-- A second command overwrites what the first one's acceptance and `done` left. -/
theorem finished_builder {o p : Byte} {s t : State} (h : BuilderOnly s t) :
    finished o ((finished p s).withBuilderOf t) = finished o t := by
  rw [h]
  rfl

/-! ## The commands -/

/-- A command that ends where its body, of one piece of work, is `done`. -/
theorem exec_of_builder {i : Instr} {s t : State} (hi : i.slot = .command) (hr : Ready s) (h : BuilderOnly s t)
    (hstart : startBody i (accept (commandWord i) (.start i) s) =
      phaseDone ((accept (commandWord i) (.start i) s).withBuilderOf t)) :
    exec i s = .next (finished (opcOf i) t) := by
  rw [phaseDone_builder h, commandWord_low] at hstart
  rw [exec_of_one_piece hi hr (by rw [hstart]; rfl), hstart]

theorem exec_buildInit {s : State} (hr : Ready s) (hv : s.freqValid = true) :
    exec .buildInit s = .next (finished 0x03 (buildInitBody s)) := by
  refine exec_of_builder rfl hr (builderOnly_buildInitBody s) ?_
  rw [← buildInitBody_accept]
  exact if_pos hv

theorem exec_buildMerge {s : State} (hr : Ready s) (ha : s.pqActive = true) :
    exec .buildMerge s = .next (finished 0x04 (buildMergeBody s)) := by
  refine exec_of_builder rfl hr (builderOnly_buildMergeBody s) ?_
  rw [← buildMergeBody_accept]
  exact if_pos ha

theorem exec_build {s : State} (hr : Ready s) (hv : s.freqValid = true) :
    exec .build s = .next (finished 0x05 (buildBody s)) := by
  refine exec_of_builder rfl hr (builderOnly_buildBody s) ?_
  rw [← buildBody_accept]
  exact if_pos hv

/-- Settles O29: the closed form of BUILD_INIT's body (`buildInitBody_eq`). -/
theorem buildInitMakesTheLeaves : Obligations.BuildInitMakesTheLeaves := by
  intro s hr hv
  rw [exec_buildInit hr hv, buildInitBody_eq]
  rfl

/-- Settles O30: the merge of the two least keys (`leastKeys_of_two`, `merge_eq`), and whether it leaves one node queued
(`latchRoot_of_one`). -/
theorem buildMergeMergesTheTwoLeast : Obligations.BuildMergeMergesTheTwoLeast := by
  intro s hr ha h2 hq hlt _
  have hnodup : s.pq.Nodup := hq.imp fun h => by bv_omega
  obtain ⟨a, b, hma, hleast, hexa, hmb, hnext, hexb⟩ := leastKeys_of_two h2
  have hlen := List.length_erase_of_mem hma
  have hlen' := List.length_erase_of_mem hmb
  refine ⟨a, b, hma, List.mem_of_mem_erase hmb, (hnodup.mem_erase_iff.mp hmb).1.symm, hleast,
    fun j hj hja hjb => hnext j (hnodup.mem_erase_iff.mpr ⟨hja, hj⟩) hjb, ?_⟩
  have hlast : insertIdx s.nodeCount ((s.pq.erase a).erase b) = (s.pq.erase a).erase b ++ [s.nodeCount] :=
    insertIdx_of_all_lt fun j hj => hlt j (List.mem_of_mem_erase (List.mem_of_mem_erase hj))
  have hmerge : merge s = { s with
      node := s.node.setIfInBounds s.nodeCount.toNat (s.mergedNode a b), nodeCount := s.nodeCount + 1
      pq := (s.pq.erase a).erase b ++ [s.nodeCount] } := by
    rw [merge_eq hexa hexb, ← hlast]
    rfl
  rw [exec_buildMerge hr ha, buildMergeBody, hmerge]
  dsimp only
  by_cases hl : s.pq.length = 2
  · have hnil : (s.pq.erase a).erase b = [] := List.length_eq_zero_iff.mp (by omega)
    rw [if_pos hl, latchRoot_of_one (by rw [hnil, List.nil_append])]
    rfl
  · rw [if_neg hl, latchRoot_of_more (by rw [List.length_append, List.length_singleton]; omega)]
    rfl

/-! ## BUILD as BUILD_INIT and merges -/

theorem Building.pqActive {s u : State} {f : List (NodeIdx × HTree × List NodeIdx)} (h : Building s u f) :
    u.pqActive = true := by
  rw [h.frame, buildInitBody_eq]

theorem Building.sched {s u : State} {f : List (NodeIdx × HTree × List NodeIdx)} (h : Building s u f) :
    u.sched = s.sched := by
  rw [h.frame, buildInitBody_eq]
  rfl

/-- The next BUILD_MERGE command of a build, after one of opcode `o`. -/
theorem Building.exec_buildMerge {s u : State} {f : List (NodeIdx × HTree × List NodeIdx)} (h : Building s u f)
    (hs : s.sched = []) (o : Byte) : exec .buildMerge (finished o u) = .next (finished 0x04 (buildMergeBody u)) := by
  rw [Machine.exec_buildMerge (s := finished o u) ⟨rfl, h.sched.trans hs⟩ h.pqActive, buildMergeBody_finished,
    finished_builder (builderOnly_buildMergeBody u)]

theorem execTimes_succ {i : Instr} {s t : State} (k : Nat) (h : exec i s = .next t) :
    execTimes i (k + 1) s = execTimes i k t := by
  rw [execTimes, h]

/-- One BUILD_MERGE command less than nodes queued does what BUILD's loop does (R116). -/
theorem Building.execTimes_buildMerge {s u : State} {f : List (NodeIdx × HTree × List NodeIdx)} (h : Building s u f)
    (hs : s.sched = []) (o : Byte) (k : Nat) (hk : u.pq.length = k + 2) :
    execTimes .buildMerge (k + 1) (finished o u) = .next (finished 0x04 (buildLoop (k + 2) u)) := by
  induction k generalizing u f o with
  | zero =>
    obtain ⟨g, -, hlen, -, -⟩ := h.merge (by omega)
    obtain ⟨r, hone⟩ := List.length_eq_one_iff.mp (by omega : (Machine.merge u).pq.length = 1)
    rw [execTimes_succ 0 (h.exec_buildMerge hs o), buildLoop_of_active _ h.pqActive, buildMergeBody,
      latchRoot_of_one hone]
    rfl
  | succ k ih =>
    obtain ⟨g, G, hlen, -, -⟩ := h.merge (by omega)
    rw [execTimes_succ _ (h.exec_buildMerge hs o), buildLoop_of_active _ h.pqActive, buildMergeBody,
      latchRoot_of_more (by omega)]
    exact ih G _ (by omega)

/-- Settles O31: each of the merges BUILD's loop makes is one BUILD_MERGE command (`Building.execTimes_buildMerge`). -/
theorem buildIsInitThenMerges : Obligations.BuildIsInitThenMerges := by
  intro s hr hv
  have hlen := (length_leavesOf s.freq).1
  obtain ⟨k, hk⟩ := Nat.exists_eq_add_of_le' hlen
  have hpq : (buildInitBody s).pq.length = k + 2 := by simp [buildInitBody_pq, hk]
  have hcount : (finished 0x03 (buildInitBody s)).leafCount.toNat - 1 = k + 1 := by
    rw [finished_leafCount, toNat_buildInitBody_leafCount, hk]
    rfl
  refine ⟨_, finished 0x04 (buildLoop (k + 2) (buildInitBody s)), exec_buildInit hr hv, ?_, ?_⟩
  · rw [hcount]
    exact (building_buildInitBody s).execTimes_buildMerge hr.2 0x03 k hpq
  · rw [exec_build hr hv, buildBody, hpq]
    rfl

/-! ## Two builds side by side -/

/-- Two builds have the same tree registers, the same queue and the same allocated entries. -/
structure SameBuild (s t : State) : Prop where
  root      : t.root = s.root
  nodeCount : t.nodeCount = s.nodeCount
  leafCount : t.leafCount = s.leafCount
  pq        : t.pq = s.pq
  pqActive  : t.pqActive = s.pqActive
  nodes     : ∀ i : NodeIdx, i < s.nodeCount → t.nodeAt i = s.nodeAt i

/-- Two BUILD_INIT bodies with the same FREQ make the same leaves (R114). -/
theorem sameBuild_buildInitBody {s t : State} (h : t.freq = s.freq) : SameBuild (buildInitBody s) (buildInitBody t) := by
  have hnodes : ∀ i : NodeIdx, i < (buildInitBody s).nodeCount → (buildInitBody t).nodeAt i = (buildInitBody s).nodeAt i := by
    intro i hi
    have hk : i.toNat < (leavesOf s.freq).length := by
      rwa [BitVec.lt_def, toNat_buildInitBody_nodeCount] at hi
    have hs := nodeAt_buildInitBody s hk
    have ht := nodeAt_buildInitBody t (h.symm ▸ hk)
    rw [BitVec.ofNat_toNat, BitVec.setWidth_eq] at hs ht
    rw [hs, ht]
    simp only [h]
  refine ⟨?_, ?_, ?_, ?_, ?_, hnodes⟩
  all_goals simp only [buildInitBody_eq, queuedNodes, buildCleared, h]

theorem SameBuild.withQueue {s t : State} (h : SameBuild s t) (q : List NodeIdx) :
    SameBuild { s with pq := q } { t with pq := q } :=
  ⟨h.root, h.nodeCount, h.leafCount, rfl, h.pqActive, h.nodes⟩

/-- The next pool entry gets the same contents and is queued. -/
theorem SameBuild.allocQueued {s t : State} (h : SameBuild s t) (n : Node) (hc : s.nodeCount.toNat < 513) :
    SameBuild (allocQueued n s) (allocQueued n t) := by
  have hnodes : ∀ i : NodeIdx, i < s.nodeCount + 1 →
      (t.setNode s.nodeCount n).nodeAt i = (s.setNode s.nodeCount n).nodeAt i := by
    intro i hi
    by_cases he : s.nodeCount = i
    · subst he
      rw [nodeAt_setNode_self _ _ _ hc, nodeAt_setNode_self _ _ _ hc]
    · rw [nodeAt_setNode_ne _ _ he, nodeAt_setNode_ne _ _ he]
      exact h.nodes i (by bv_omega)
  unfold Machine.allocQueued pqInsert
  rw [h.nodeCount]
  exact ⟨h.root, rfl, h.leafCount, congrArg (insertIdx s.nodeCount) h.pq, h.pqActive, hnodes⟩

/-- Two merges make the same node (R113). -/
theorem SameBuild.merge {s t : State} (h : SameBuild s t) (h2 : 2 ≤ s.pq.length) (hq : ∀ i ∈ s.pq, i < s.nodeCount)
    (hc : s.nodeCount.toNat < 513) : SameBuild (merge s) (merge t) := by
  obtain ⟨a, b, ha, -, hexa, hb, -, hexb⟩ := leastKeys_of_two h2
  have hnode : ∀ i ∈ s.pq, t.nodeAt i = s.nodeAt i := fun i hi => h.nodes i (hq i hi)
  have hta : t.leastKey t.pq = some a := by rw [h.pq, leastKey_congr hnode, hexa]
  have htb : t.leastKey (t.pq.erase a) = some b := by
    rw [h.pq, leastKey_congr fun i hi => hnode i (List.mem_of_mem_erase hi), hexb]
  have hn : t.mergedNode a b = s.mergedNode a b := by
    rw [State.mergedNode, hnode a ha, hnode b (List.mem_of_mem_erase hb)]
    rfl
  rw [merge_eq hexa hexb, merge_eq hta htb, hn, h.pq]
  exact (h.withQueue _).allocQueued _ hc

/-- The node that is left is the root of both builds (R115). -/
theorem SameBuild.latchRoot {s t : State} (h : SameBuild s t) : SameBuild (latchRoot s) (latchRoot t) := by
  by_cases hl : s.pq.length = 1
  · obtain ⟨r, hr⟩ := List.length_eq_one_iff.mp hl
    rw [latchRoot_of_one hr, latchRoot_of_one (h.pq.trans hr)]
    exact ⟨rfl, h.nodeCount, h.leafCount, rfl, rfl, h.nodes⟩
  · rw [latchRoot_of_more hl, latchRoot_of_more (h.pq ▸ hl)]
    exact h

/-- BUILD's loop goes the same way twice (R116). -/
theorem SameBuild.buildLoop {s t : State} (h : SameBuild s t) (k : Nat) (hf : FlagsAgree s) (hp : PoolHolds s) :
    SameBuild (buildLoop k s) (buildLoop k t) := by
  induction k generalizing s t with
  | zero => exact h
  | succ k ih =>
    cases ha : s.pqActive with
    | false => rwa [buildLoop_of_inactive _ ha, buildLoop_of_inactive _ (h.pqActive.trans ha)]
    | true =>
      obtain ⟨hforest, hsorted⟩ := hp.forest ha
      obtain ⟨f, F⟩ := exists_forest hforest hsorted
      have h2 := hf.queueTwo ha
      have hcount := F.nodeCount_add
      have hbound := F.bound
      rw [buildLoop_of_active _ ha, buildLoop_of_active _ (h.pqActive.trans ha)]
      exact ih (h.merge h2 (fun _ => F.lt_of_queued) (by omega)).latchRoot (flagsAgree_buildMergeBody ha hf)
        (poolHolds_buildMergeBody ha hf hp)

/-- Settles O33: the two builds start with the same leaves and go the same way (`SameBuild.buildLoop`). -/
theorem buildDependsOnFreqAlone : Obligations.BuildDependsOnFreqAlone := by
  intro s₁ s₂ t₁ t₂ hr₁ hr₂ hv₁ hv₂ hfreq h₁ h₂
  have hinit := sameBuild_buildInitBody hfreq.symm
  have hbuild := hinit.buildLoop (buildInitBody s₁).pq.length (flagsAgree_buildInitBody s₁) (poolHolds_buildInitBody s₁)
  rw [exec_build hr₁ hv₁, buildBody] at h₁
  rw [exec_build hr₂ hv₂, buildBody, hinit.pq] at h₂
  cases h₁
  cases h₂
  exact ⟨hbuild.root.symm, hbuild.nodeCount.symm, hbuild.leafCount.symm, fun i hi => (hbuild.nodes i hi).symm⟩

/-! ## Preconditions -/

/-- A command whose first piece of work raises an error leaves what `failed` says (R193, R195). -/
theorem exec_of_raise {i : Instr} {s : State} {e : ErrCode} {q : PortId} (hi : i.slot = .command) (hr : Ready s)
    (h : startBody i (accept (commandWord i) (.start i) s) = raise e q (accept (commandWord i) (.start i) s)) :
    exec i s = .next (failed (opcOf i) e q s) := by
  rw [raise_accept, commandWord_low] at h
  rw [exec_of_one_piece hi hr (by rw [h]; rfl), h]

/-- Settles O22: each body tests its input first (`exec_of_raise`). -/
theorem preconditionsAreCheckedFirst : Obligations.PreconditionsAreCheckedFirst := by
  intro s hr
  exact ⟨fun hv => exec_of_raise (i := .buildInit) rfl hr (if_neg (Bool.eq_false_iff.mp hv)),
    fun hv => exec_of_raise (i := .buildMerge) rfl hr (if_neg (Bool.eq_false_iff.mp hv)),
    fun hv => exec_of_raise (i := .build) rfl hr (if_neg (Bool.eq_false_iff.mp hv)),
    fun hv => exec_of_raise (i := .gencodes) rfl hr (if_pos (by simp [accept, hv])),
    fun hv => exec_of_raise (i := .wrhdr) rfl hr (if_neg (Bool.eq_false_iff.mp hv)),
    fun hv => exec_of_raise (i := .encode) rfl hr (if_neg (Bool.eq_false_iff.mp hv)),
    fun hv => exec_of_raise (i := .decode) rfl hr (if_pos (by simp [accept, hv])),
    fun hv hl => ⟨exec_of_raise (i := .gencodes) rfl hr ((if_neg (by simp [accept, hv])).trans (if_pos hl)),
      exec_of_raise (i := .decode) rfl hr ((if_neg (by simp [accept, hv])).trans (if_pos hl))⟩⟩

end Sys2Proof.Machine

/-! # GENCODES

The walk records a tree's codes in order (R130, R131); the codes of a built tree are a complete prefix code (R132). -/

namespace Sys2Proof.Machine

/-! ## The walk -/

/-- `CT` with a list of codes recorded one after another. -/
def recordCodes (cs : List (BitVec 10 × Bits)) (ct : Vector Bits 257) : Vector Bits 257 :=
  cs.foldl (fun ct c => setCode c.1 c.2 ct) ct

@[simp] theorem recordCodes_nil (ct : Vector Bits 257) : recordCodes [] ct = ct := rfl

@[simp] theorem recordCodes_singleton (c : BitVec 10 × Bits) (ct : Vector Bits 257) :
    recordCodes [c] ct = setCode c.1 c.2 ct := rfl

theorem recordCodes_append (cs ds : List (BitVec 10 × Bits)) (ct : Vector Bits 257) :
    recordCodes (cs ++ ds) ct = recordCodes ds (recordCodes cs ct) := List.foldl_append

/-- The last code recorded for a value stands in its entry; the other entries are as they were. -/
theorem getElem_recordCodes (cs : List (BitVec 10 × Bits)) (ct : Vector Bits 257) (v : Nat) (hv : v < 257) :
    (recordCodes cs ct)[v] = ((cs.filter fun c => c.1.toNat = v).getLast?.map Prod.snd).getD ct[v] := by
  induction cs using List.reverseRecOn with
  | nil => rfl
  | append_singleton cs c ih =>
    rw [recordCodes_append, recordCodes_singleton, setCode, List.filter_append]
    by_cases hc : c.1.toNat = v
    · simp [hc]
    · rw [Vector.getElem_setIfInBounds_ne _ hc, ih]
      simp [hc]

theorem HTree.one_le_leaves (t : HTree) : 1 ≤ t.leaves := by
  have := t.size_add_one
  omega

/-- A walk deep enough for the tree records its codes, each behind the path to the tree's root. -/
theorem IsTree.walk_eq {pool : NodeIdx → Node} {i : NodeIdx} {t : HTree} {ids : List NodeIdx} (h : IsTree pool i t ids)
    {k : Nat} (hk : t.leaves ≤ k) (p : Bits) (ct : Vector Bits 257) :
    walk pool k i p ct = recordCodes (t.codes.map fun c => (c.1, p ++ c.2)) ct := by
  induction h generalizing k p ct with
  | leaf i v hl hv =>
    obtain ⟨k, rfl⟩ := Nat.exists_eq_add_of_le' (show 1 ≤ k from hk)
    simp [walk, hl, hv, HTree.codes]
  | node i l r il ir hn _ _ ihl ihr =>
    have hl1 := l.one_le_leaves
    have hr1 := r.one_le_leaves
    rw [HTree.leaves] at hk
    obtain ⟨k, rfl⟩ := Nat.exists_eq_add_of_le' (show 1 ≤ k by omega)
    simp [walk, hn, ihl (k := k) (by omega), ihr (k := k) (by omega), HTree.codes, ← recordCodes_append, Function.comp_def]

/-- A tree of at most 513 nodes has at most 257 leaves. -/
theorem HoldsTree.leaves_le {s : State} {t : HTree} (h : HoldsTree s t) : t.leaves ≤ Config.codeMax + 1 := by
  obtain ⟨ids, htree, -, hlen, -⟩ := h.tree
  have hsize := t.size_add_one
  have hcap := h.capacity
  have hnodes := htree.length_ids
  simp only [Config.nodeCap, Config.codeMax] at hcap ⊢
  omega

/-- A tree of two leaves or more has an internal root. -/
theorem IsTree.root_internal_of_two {pool : NodeIdx → Node} {i : NodeIdx} {t : HTree} {ids : List NodeIdx}
    (h : IsTree pool i t ids) (h2 : 2 ≤ t.leaves) : (pool i).isLeaf = false := by
  cases h with
  | leaf => exact absurd h2 (by simp [HTree.leaves])
  | node _ _ _ _ _ hn => exact hn

/-- The walk from ROOT makes the code table of the tree the pool holds. -/
theorem HoldsTree.generatedCodes_eq {s : State} {t : HTree} (h : HoldsTree s t) : s.generatedCodes = t.codeTable := by
  obtain ⟨ids, htree, -⟩ := h.tree
  rw [State.generatedCodes, htree.walk_eq h.leaves_le]
  ext1 v hv
  rw [getElem_recordCodes]
  simp [HTree.codeTable, HTree.codeOf]

/-! ## The command -/

theorem exec_gencodes {s : State} (hr : Ready s) (hv : s.treeValid = true) (hn : (s.nodeAt s.root).isLeaf = false) :
    exec .gencodes s = .next { finished 0x06 s with codesValid := true, ct := s.generatedCodes } := by
  have hstart : startBody .gencodes (accept (commandWord .gencodes) (.start .gencodes) s) =
      { finished 0x06 s with codesValid := true, ct := s.generatedCodes } := by
    rw [startBody, gencodesStart, if_neg (by simp [hv]), if_neg (by exact Bool.eq_false_iff.mp hn)]
    rfl
  rw [exec_of_one_piece rfl hr (by rw [hstart]; rfl), hstart]

/-- Settles O34: the walk records the tree's codes (`IsTree.walk_eq`), and the last code of a value stays (`getElem_recordCodes`). -/
theorem gencodesRecordsLeafPaths : Obligations.GencodesRecordsLeafPaths := by
  intro s tree hr ht hn
  rw [exec_gencodes hr ht.valid hn, ht.generatedCodes_eq]

/-! ## Codes of a tree -/

@[simp] theorem HTree.getElem_codeTable (t : HTree) {v : Nat} (hv : v < 257) : t.codeTable[v] = t.codeOf v :=
  Vector.getElem_ofFn hv

/-- The code of a value is the path of one of its leaves, or there is no such leaf and it is empty. -/
theorem HTree.codeOf_cases (t : HTree) (v : Nat) : (∃ c ∈ t.codes, c.1.toNat = v ∧ t.codeOf v = c.2) ∨
    ((∀ c ∈ t.codes, c.1.toNat ≠ v) ∧ t.codeOf v = []) := by
  rw [HTree.codeOf]
  cases h : (t.codes.filter fun c => c.1.toNat = v).getLast? with
  | none => exact .inr ⟨by simpa using h, rfl⟩
  | some c =>
    have hc := List.mem_filter.mp (List.mem_of_getLast? h)
    exact .inl ⟨c, hc.1, by simpa using hc.2, rfl⟩

theorem HTree.mem_codes_node {l r : HTree} {c : BitVec 10 × Bits} : c ∈ (HTree.node l r).codes ↔
    (∃ d ∈ l.codes, (d.1, false :: d.2) = c) ∨ ∃ d ∈ r.codes, (d.1, true :: d.2) = c := by
  simp only [HTree.codes, List.mem_append, List.mem_map]

/-- Where the root is internal every leaf's path has a bit. -/
theorem HTree.path_ne_nil {t : HTree} (h2 : 2 ≤ t.leaves) : ∀ c ∈ t.codes, c.2 ≠ [] := by
  cases t with
  | leaf v => exact absurd h2 (by simp [HTree.leaves])
  | node l r =>
    intro c hc
    rcases HTree.mem_codes_node.mp hc with ⟨d, -, rfl⟩ | ⟨d, -, rfl⟩
    · exact List.cons_ne_nil false d.2
    · exact List.cons_ne_nil true d.2

theorem HTree.codeOf_ne_nil_iff {t : HTree} (h2 : 2 ≤ t.leaves) (v : Nat) :
    t.codeOf v ≠ [] ↔ v ∈ t.codes.map fun c => c.1.toNat := by
  rw [List.mem_map]
  rcases t.codeOf_cases v with ⟨c, hc, hv, he⟩ | ⟨hno, he⟩
  · exact iff_of_true (he ▸ HTree.path_ne_nil h2 c hc) ⟨c, hc, hv⟩
  · exact iff_of_false (not_not_intro he) fun ⟨c, hc, hv⟩ => hno c hc hv

/-- No leaf lies on another leaf's path. -/
theorem HTree.eq_of_path_prefix (t : HTree) {c d : BitVec 10 × Bits} (hc : c ∈ t.codes) (hd : d ∈ t.codes)
    (h : c.2 <+: d.2) : c = d := by
  induction t generalizing c d with
  | leaf v => rw [List.mem_singleton.mp hc, List.mem_singleton.mp hd]
  | node l r ihl ihr =>
    rcases HTree.mem_codes_node.mp hc with ⟨c', hc', rfl⟩ | ⟨c', hc', rfl⟩ <;>
      rcases HTree.mem_codes_node.mp hd with ⟨d', hd', rfl⟩ | ⟨d', hd', rfl⟩
    · rw [ihl hc' hd' ((List.prefix_cons_inj _).mp h)]
    · simp at h
    · simp at h
    · rw [ihr hc' hd' ((List.prefix_cons_inj _).mp h)]

/-- The paths of a full tree fill the code space: Kraft's sum is 1, over `2 ^ k` for a `k` no path is longer than (R132). -/
theorem HTree.kraft_sum (t : HTree) {k : Nat} (hk : t.leaves ≤ k + 1) :
    (t.codes.map fun c => 2 ^ (k - c.2.length)).sum = 2 ^ k := by
  induction t generalizing k with
  | leaf v => simp [HTree.codes]
  | node l r ihl ihr =>
    have hl1 := l.one_le_leaves
    have hr1 := r.one_le_leaves
    rw [HTree.leaves] at hk
    obtain ⟨k, rfl⟩ := Nat.exists_eq_add_of_le' (show 1 ≤ k by omega)
    have hl := ihl (k := k) (by omega)
    have hr := ihr (k := k) (by omega)
    simp only [HTree.codes, List.map_append, List.map_map, List.sum_append, Function.comp_def, List.length_cons,
      Nat.add_sub_add_right, hl, hr]
    omega

/-- Values that differ and have codes have codes neither of which is a prefix of the other. -/
theorem HTree.codeOf_not_prefix (t : HTree) {v w : Nat} (hvw : v ≠ w) (hv : t.codeOf v ≠ []) :
    ¬ t.codeOf v <+: t.codeOf w := by
  intro h
  obtain ⟨c, hc, rfl, hcv⟩ | ⟨-, hnil⟩ := t.codeOf_cases v
  · obtain ⟨d, hd, rfl, hdw⟩ | ⟨-, hnil⟩ := t.codeOf_cases w
    · rw [hcv, hdw] at h
      exact hvw (congrArg (·.1.toNat) (t.eq_of_path_prefix hc hd h))
    · rw [hnil] at h
      exact hv (List.prefix_nil.mp h)
  · exact hv hnil

/-- In a tree that has each value once a leaf's path is its value's code. -/
theorem HTree.codeOf_of_mem {t : HTree} (hn : (t.codes.map fun c => c.1.toNat).Nodup) {c : BitVec 10 × Bits}
    (hc : c ∈ t.codes) : t.codeOf c.1.toNat = c.2 := by
  obtain ⟨d, hd, hv, he⟩ | ⟨hno, -⟩ := t.codeOf_cases c.1.toNat
  · rw [he, List.inj_on_of_nodup_map hn hd hc hv]
  · exact absurd rfl (hno c hc)

/-- The non-empty entries of the code table are the paths of the leaves, where the values are up to 256 and each occurs once. -/
theorem HTree.codeTable_perm {t : HTree} (h2 : 2 ≤ t.leaves) (hn : (t.codes.map fun c => c.1.toNat).Nodup)
    (hle : ∀ c ∈ t.codes, c.1.toNat < 257) :
    (t.codeTable.toList.filter (· ≠ [])).Perm (t.codes.map Prod.snd) := by
  have htable : t.codeTable.toList.filter (· ≠ []) =
      ((List.finRange 257).filter fun v : Fin 257 => t.codeOf v ≠ []).map fun v : Fin 257 => t.codeOf v := by
    rw [HTree.codeTable, Vector.toList_ofFn, List.ofFn_eq_map, List.filter_map]
    rfl
  rw [htable]
  refine (List.perm_ext_iff_of_nodup ?_ ?_).mpr fun p => ?_
  · refine ((List.nodup_finRange 257).filter _).map_on fun v hv w _ he => ?_
    by_contra hvw
    refine t.codeOf_not_prefix (Fin.val_ne_of_ne hvw) (by simpa using hv) ?_
    rw [he]
  · exact (List.Nodup.of_map _ hn).map_on fun c hc d hd he => t.eq_of_path_prefix hc hd (he ▸ List.prefix_rfl)
  · simp only [List.mem_map, List.mem_filter, List.mem_finRange, true_and, decide_eq_true_eq]
    constructor
    · rintro ⟨v, hv, rfl⟩
      obtain ⟨c, hc, -, he⟩ | ⟨-, hnil⟩ := t.codeOf_cases v
      · exact ⟨c, hc, he.symm⟩
      · exact absurd hnil hv
    · rintro ⟨c, hc, rfl⟩
      have he := HTree.codeOf_of_mem hn hc
      exact ⟨⟨c.1.toNat, hle c hc⟩, he ▸ HTree.path_ne_nil h2 c hc, he⟩

/-! ## The values of a built tree -/

/-- The bytes BUILD_INIT makes leaves of: those counted, or byte 0 where none is (R114). -/
def codedBytes (freq : Vector Word 256) : List (Fin 256) :=
  let counted := (List.finRange 256).filter fun b : Fin 256 => freq[b] ≠ 0
  if counted = [] then [0] else counted

theorem totalCount_eq_zero_iff (freq : Vector Word 256) : totalCount freq = 0 ↔ ∀ b : Fin 256, freq[b] = 0 := by
  rw [totalCount, List.sum_eq_zero_iff, List.forall_mem_map]
  simp [Vector.forall_mem_iff_forall_getElem, Fin.forall_iff, ← BitVec.toNat_inj]

theorem mem_codedBytes (freq : Vector Word 256) (b : Fin 256) :
    b ∈ codedBytes freq ↔ freq[b] ≠ 0 ∨ (b = 0 ∧ totalCount freq = 0) := by
  rw [codedBytes, totalCount_eq_zero_iff]
  simp only [List.filter_eq_nil_iff, List.mem_finRange, true_imp_iff, decide_eq_true_eq, not_not]
  split
  next h => simp [h]
  next h => simp only [List.mem_filter, List.mem_finRange, true_and, decide_eq_true_eq, h, and_false, or_false]

theorem nodup_codedBytes (freq : Vector Word 256) : (codedBytes freq).Nodup := by
  rw [codedBytes]
  split
  · exact List.nodup_singleton 0
  · exact (List.nodup_finRange 256).filter _

/-- The values that a built tree has: the coded bytes and the sentinel's. -/
def codedValues (freq : Vector Word 256) : List Nat := (codedBytes freq).map Fin.val ++ [256]

theorem byte_mem_codedValues (freq : Vector Word 256) (b : Fin 256) :
    b.val ∈ codedValues freq ↔ freq[b] ≠ 0 ∨ (b = 0 ∧ totalCount freq = 0) := by
  rw [← mem_codedBytes, codedValues, List.mem_append, List.mem_map_of_injective Fin.val_injective, List.mem_singleton,
    or_iff_left b.isLt.ne]

theorem sentinel_mem_codedValues (freq : Vector Word 256) : 256 ∈ codedValues freq :=
  List.mem_append_right _ (List.mem_singleton_self 256)

theorem lt_of_mem_codedValues {freq : Vector Word 256} {v : Nat} (h : v ∈ codedValues freq) : v < 257 := by
  rcases List.mem_append.mp h with h | h
  · obtain ⟨b, -, rfl⟩ := List.mem_map.mp h
    exact b.isLt.trans (by decide)
  · rw [List.mem_singleton.mp h]
    decide

theorem nodup_codedValues (freq : Vector Word 256) : (codedValues freq).Nodup := by
  refine ((nodup_codedBytes freq).map Fin.val_injective).append (List.nodup_singleton 256) ?_
  rw [List.disjoint_singleton, List.mem_map]
  rintro ⟨b, -, hb⟩
  exact b.isLt.ne hb

/-- They are the values of BUILD_INIT's leaves. -/
theorem values_leavesOf (freq : Vector Word 256) :
    (leavesOf freq).map (fun n => n.value.toNat) = codedValues freq := by
  have hbyte (b : Fin 256) : (byteNode freq b).value.toNat = b.val := by
    simp only [byteNode, BitVec.toNat_ofNat]
    omega
  rw [leavesOf_eq, codedValues, codedBytes, byteNodes]
  simp only [List.map_eq_nil_iff]
  split
  · rfl
  · simp [hbyte, Function.comp_def]

/-- Settles O35: the tree BUILD makes (O32) has each coded byte and the sentinel once (`values_leavesOf`), so its table's entries are
the paths of a full tree (`HTree.codeTable_perm`, `HTree.kraft_sum`). -/
theorem builtCodesAreACompletePrefixCode : Obligations.BuiltCodesAreACompletePrefixCode := by
  intro s hr hv
  obtain ⟨t, tree, hbuild, hframe, htree, h2, hle, -, -, -, hperm, -⟩ := buildMakesAHuffmanTree s hr hv
  have hready : Ready t := by rw [hframe]; exact ⟨rfl, hr.2⟩
  obtain ⟨ids, hroot, -⟩ := htree.tree
  have hvals : (tree.codes.map fun c => c.1.toNat).Perm (codedValues s.freq) := by
    rw [← values_leavesOf]
    simpa [Function.comp_def] using hperm.map BitVec.toNat
  have hnodup := hvals.nodup_iff.mpr (nodup_codedValues s.freq)
  have hlt : ∀ c ∈ tree.codes, c.1.toNat < 257 :=
    fun c hc => lt_of_mem_codedValues (hvals.mem_iff.mp (List.mem_map_of_mem hc))
  have hcoded (v : Nat) : tree.codeOf v ≠ [] ↔ v ∈ codedValues s.freq :=
    (HTree.codeOf_ne_nil_iff h2 v).trans hvals.mem_iff
  refine ⟨t, _, hbuild, gencodesRecordsLeafPaths t tree hready htree (hroot.root_internal_of_two h2), rfl, rfl,
    fun b => ?_, ?_, fun v w hvw => ?_, fun v => ?_, ?_⟩
  · rw [HTree.getElem_codeTable, hcoded]
    exact byte_mem_codedValues s.freq b
  · rw [HTree.getElem_codeTable, hcoded]
    exact sentinel_mem_codedValues s.freq
  · rw [HTree.getElem_codeTable, HTree.getElem_codeTable]
    exact tree.codeOf_not_prefix (Fin.val_ne_of_ne hvw)
  · exact generatedCodes_bounded t _ (htree.generatedCodes_eq ▸ Vector.mem_toList_iff.mpr (Vector.getElem_mem v.isLt))
  · rw [((HTree.codeTable_perm h2 hnodup hlt).map _).sum_eq, List.map_map]
    exact tree.kraft_sum hle

end Sys2Proof.Machine

/-! # The tree section as a list of tokens

RDHDR reads the tree section token by token (R88, R142): complete tokens one after another (`tokensRead`), and then the end of the
tree, a token that is cut short, or a flag bit with no pool entry left. -/

namespace Sys2Proof.Machine

/-! ## Tokens -/

/-- The tokens of the tree section, in preorder (R88). -/
def HTree.tokens : HTree → List Instr
  | .leaf v => [.leaf (v.toNat % 512)]
  | .node l r => .internal :: (l.tokens ++ r.tokens)

/-- The transactions that read an instruction, each by its number of bits: a LEAF token's are two (R142). -/
def tokenReads : Instr → List Nat
  | .leaf _ => [1, 9]
  | i => [(encode i).length]

/-- How many of the tokens are LEAF. -/
def leafTokens (a : List Instr) : Nat := a.countP (· ≠ .internal)

@[simp] theorem leafTokens_append (a b : List Instr) : leafTokens (a ++ b) = leafTokens a + leafTokens b :=
  List.countP_append

@[simp] theorem leafTokens_internal (a : List Instr) : leafTokens (.internal :: a) = leafTokens a :=
  List.countP_cons_of_neg (by decide)

@[simp] theorem leafTokens_leaf (v : Nat) (a : List Instr) : leafTokens (.leaf v :: a) = leafTokens a + 1 :=
  List.countP_cons_of_pos (by simp)

@[simp] theorem leafTokens_nil : leafTokens [] = 0 := rfl

/-- The tree the tree section stands for: of a leaf's value it has the low nine bits (R88, R140). -/
def HTree.nineBits : HTree → HTree
  | .leaf v => .leaf (BitVec.ofNat 10 (v.toNat % 512))
  | .node l r => .node l.nineBits r.nineBits

@[simp] theorem HTree.length_tokens (t : HTree) : t.tokens.length = t.size := by
  induction t with
  | leaf v => rfl
  | node l r hl hr => simp [HTree.tokens, HTree.size, hl, hr]

@[simp] theorem HTree.leafTokens_tokens (t : HTree) : leafTokens t.tokens = t.leaves := by
  induction t with
  | leaf v => rfl
  | node l r hl hr => simp [HTree.tokens, HTree.leaves, hl, hr]

@[simp] theorem HTree.size_nineBits (t : HTree) : t.nineBits.size = t.size := by
  induction t with
  | leaf v => rfl
  | node l r hl hr => simp [HTree.nineBits, HTree.size, hl, hr]

theorem HTree.flatMap_encode_tokens (t : HTree) : t.tokens.flatMap encode = t.wire := by
  induction t with
  | leaf v =>
    have hv := bitsN_add_mul 9 (v.toNat % 512) (v.toNat / 512)
    rw [show v.toNat % 512 + 2 ^ 9 * (v.toNat / 512) = v.toNat from Nat.mod_add_div ..] at hv
    simp [HTree.tokens, HTree.wire, encode, hv]
  | node l r hl hr => simp [HTree.tokens, HTree.wire, encode, hl, hr]

theorem HTree.map_tokenReads_tokens (t : HTree) : t.tokens.map tokenReads = t.reads := by
  induction t with
  | leaf v => rfl
  | node l r hl hr => simp [HTree.tokens, HTree.reads, hl, hr, tokenReads, encode]

theorem HTree.mem_tokens {t : HTree} {i : Instr} (h : i ∈ t.tokens) : i = .internal ∨ ∃ v < 512, i = .leaf v := by
  induction t with
  | leaf v => exact .inr ⟨_, Nat.mod_lt _ (by decide), List.mem_singleton.mp h⟩
  | node l r hl hr =>
    simp only [HTree.tokens, List.mem_cons, List.mem_append] at h
    rcases h with h | h | h
    · exact .inl h
    · exact hl h
    · exact hr h

/-- Nothing is lost where the values have nine bits (R90). -/
theorem HTree.nineBits_eq_self {t : HTree} (h : ∀ c ∈ t.codes, c.1.toNat < 512) : t.nineBits = t := by
  induction t with
  | leaf v =>
    have hv : v.toNat < 512 := h (v, []) (by simp [HTree.codes])
    rw [HTree.nineBits, Nat.mod_eq_of_lt hv, BitVec.ofNat_toNat, BitVec.setWidth_eq]
  | node l r hl hr =>
    rw [HTree.nineBits, hl fun c hc => h (c.1, false :: c.2) ?_, hr fun c hc => h (c.1, true :: c.2) ?_]
    · simpa [HTree.codes] using hc
    · simpa [HTree.codes] using hc

theorem sum_tokenReads (i : Instr) : (tokenReads i).sum = (encode i).length := by
  cases i with
  | leaf v => simp [tokenReads, encode]
  | _ => exact Nat.add_zero _

/-- The transactions of some tokens receive the bits of those tokens. -/
theorem sum_flatMap_tokenReads (a : List Instr) : (a.flatMap tokenReads).sum = (a.flatMap encode).length := by
  induction a with
  | nil => rfl
  | cons i a ih => simp [ih, sum_tokenReads]

theorem one_le_length_encode (i : Instr) : 1 ≤ (encode i).length := by
  cases i <;> simp [encode]

/-- A token has a bit at least. -/
theorem length_le_flatMap_encode (a : List Instr) : a.length ≤ (a.flatMap encode).length := by
  induction a with
  | nil => exact Nat.le_refl 0
  | cons i a ih =>
    have := one_le_length_encode i
    simp only [List.flatMap_cons, List.length_append, List.length_cons]
    omega

/-- The first tokens of a tree section take the bits its first transactions receive. -/
theorem HTree.sum_take_reads_eq (t : HTree) (n : Nat) :
    (t.reads.take n).flatten.sum = ((t.tokens.take n).flatMap encode).length := by
  rw [← t.map_tokenReads_tokens, ← List.map_take, ← List.flatMap_def, sum_flatMap_tokenReads]

/-! ## Cuts -/

/-- A list of bit strings cut before its end is cut inside one of them, the ones before it being whole. -/
theorem exists_cut_flatMap {α : Type} {f : α → Bits} {l : List α} {q : Bits} (hq : q <+: l.flatMap f)
    (hne : q ≠ l.flatMap f) : ∃ a i b p, l = a ++ i :: b ∧ q = a.flatMap f ++ p ∧ p <+: f i ∧ p ≠ f i := by
  induction l generalizing q with
  | nil => exact absurd (List.prefix_nil.mp hq) hne
  | cons i l ih =>
    rw [List.flatMap_cons] at hq hne
    by_cases hp : f i <+: q
    · obtain ⟨q, rfl⟩ := hp
      obtain ⟨a, j, b, p, rfl, rfl, hp⟩ := ih ((List.prefix_append_right_inj _).mp hq) fun e => hne (by rw [e])
      exact ⟨i :: a, j, b, p, rfl, by simp, hp⟩
    · refine ⟨[], i, l, q, rfl, rfl, ?_, fun e => hp (by rw [e])⟩
      exact (List.prefix_or_prefix_of_prefix hq (List.prefix_append _ _)).resolve_right hp

/-- Bits that do not reach past the first `n` tokens end among them: before the last of them is whole, or exactly behind it. -/
theorem length_of_cut_le {a b : List Instr} {i : Instr} {p : Bits} {n : Nat}
    (h : (a.flatMap encode ++ p).length ≤ (((a ++ i :: b).take n).flatMap encode).length) :
    a.length < n ∨ a.length = n ∧ p = [] := by
  rcases Nat.lt_or_ge a.length n with hlt | hge
  · exact .inl hlt
  · have htail := length_le_flatMap_encode (a.drop n)
    have hsplit : (a.flatMap encode).length = ((a.take n).flatMap encode).length + ((a.drop n).flatMap encode).length := by
      rw [← List.length_append, ← List.flatMap_append, List.take_append_drop]
    rw [List.take_append_of_le_length hge, List.length_append, hsplit] at h
    rw [List.length_drop] at htail
    exact .inr ⟨by omega, List.eq_nil_of_length_eq_zero (by omega)⟩

/-- A tree of more than `n` nodes has a token behind the first `n`. -/
theorem exists_token_at {t : HTree} {n : Nat} (h : n < t.size) : ∃ a i b, t.tokens = a ++ i :: b ∧ a.length = n := by
  rw [← t.length_tokens] at h
  refine ⟨t.tokens.take n, t.tokens[n], t.tokens.drop (n + 1), ?_, List.length_take_of_le h.le⟩
  rw [← List.drop_eq_getElem_cons h, List.take_append_drop]

/-! ## Tokens read -/

/-- `s` after RDHDR has read the tokens `a`, all answered: allocated, counted and consumed, with the pool `pool` (R142). -/
def tokensRead (a : List Instr) (pool : Vector Node 513) (s : State) : State :=
  { s with
    node := pool
    nodeCount := s.nodeCount + BitVec.ofNat 10 a.length, leafCount := s.leafCount + BitVec.ofNat 9 (leafTokens a)
    bitsIn := s.bitsIn + BitVec.ofNat 64 (a.flatMap encode).length
    hdrBits := s.hdrBits + BitVec.ofNat 32 (a.flatMap encode).length
    bsrc := ⟨s.bsrc.bits, s.bsrc.pos + (a.flatMap encode).length, s.bsrc.replies.drop (a.length + leafTokens a)⟩ }

theorem tokensRead_nil (s : State) : tokensRead [] s.node s = s := by
  simp [tokensRead]

theorem tokensRead_tokensRead (a b : List Instr) (p q : Vector Node 513) (s : State) :
    tokensRead b q (tokensRead a p s) = tokensRead (a ++ b) q s := by
  have hk : a.length + leafTokens a + (b.length + leafTokens b) = (a ++ b).length + leafTokens (a ++ b) := by
    rw [leafTokens_append, List.length_append]
    omega
  simp only [tokensRead, List.drop_drop, hk]
  simp only [leafTokens_append, List.length_append, List.flatMap_append, BitVec.ofNat_add, BitVec.add_assoc, Nat.add_assoc]

theorem setNode_tokensRead (a : List Instr) (p : Vector Node 513) (s : State) (i : NodeIdx) (n : Node) :
    (tokensRead a p s).setNode i n = tokensRead a (p.setIfInBounds i.toNat n) s := rfl

/-- The engine has every turn, BSRC answers, and `rest` is what stands next on it. -/
structure Reading (s : State) (rest : Bits) : Prop where
  runs    : EngineRuns s
  answers : Answers s.bsrc.replies
  rest    : s.bsrcRest = rest

/-- Behind the tokens read the next bits stand. -/
theorem Reading.past {s : State} {a : List Instr} {rest : Bits} (h : Reading s (a.flatMap encode ++ rest))
    (p : Vector Node 513) : Reading (tokensRead a p s) rest where
  runs := ⟨h.runs.busy, h.runs.sched⟩
  answers := h.answers.drop _
  rest := by
    have hrest : (tokensRead a p s).bsrcRest = s.bsrcRest.drop (a.flatMap encode).length := bsrcRest_advance s _ _
    rw [hrest, h.rest, List.drop_left]

theorem toNat_nodeCount_tokensRead {s : State} {a : List Instr} (p : Vector Node 513)
    (hc : s.nodeCount.toNat + a.length ≤ 513) :
    (tokensRead a p s).nodeCount.toNat = s.nodeCount.toNat + a.length := by
  show (s.nodeCount + BitVec.ofNat 10 a.length).toNat = _
  rw [BitVec.toNat_add, BitVec.toNat_ofNat, Nat.mod_eq_of_lt (a := a.length) (by omega), Nat.mod_eq_of_lt (by omega)]

theorem toNat_nodeCount_tokensRead_tree {s : State} {t : HTree} (p : Vector Node 513)
    (hc : s.nodeCount.toNat + t.size ≤ 513) :
    (tokensRead t.tokens p s).nodeCount.toNat = s.nodeCount.toNat + t.size := by
  rw [← t.length_tokens] at hc ⊢
  exact toNat_nodeCount_tokensRead p hc

/-- Closing a subtree does not depend on what the engine was at. -/
theorem closeSubtree_withWork (w : Work) (r : NodeIdx) (st : List Frame) (s : State) :
    closeSubtree r st (withWork w s) = closeSubtree r st s := by
  induction st generalizing r s with
  | nil => exact phaseDone_withWork w { s with root := r, treeValid := true, treeSrc := true }
  | cons f st ih =>
    obtain ⟨i, _ | l⟩ := f
    · rfl
    · exact ih i (s.setNode i { s.nodeAt i with left := l, right := r })

/-- One piece of the deserializer's work, and then the others. -/
theorem Reading.run_getToken {s : State} {rest : Bits} (h : Reading s rest) (st : List Frame) (k : Nat) :
    run (k + 1) (withWork (.getToken st) s) = run k (getTokenTick st (withWork (.getToken st) s)) :=
  h.runs.run_withWork (.getToken st) k (nextReply_of_answers h.answers)

/-- The deserializer at an INTERNAL token, and then the others (R142). -/
theorem Reading.run_internal {s : State} {rest : Bits} (h : Reading s (encode .internal ++ rest))
    (hc : s.nodeCount.toNat < 513) (st : List Frame) : ∃ pool,
    pool = (s.setNode s.nodeCount ⟨false, Config.internalValue, 0, Config.nil, Config.nil⟩).node ∧
      Reading (tokensRead [.internal] pool s) rest ∧
      (tokensRead [.internal] pool s).nodeCount.toNat = s.nodeCount.toNat + 1 ∧
      ∀ k, run (k + 1) (withWork (.getToken st) s) =
        run k (withWork (.getToken (⟨s.nodeCount, none⟩ :: st)) (tokensRead [.internal] pool s)) := by
  have hrest : (withWork (.getToken st) s).bsrcRest = false :: rest := h.rest
  have htick : getTokenTick st (withWork (.getToken st) s) =
      internalAllocated st (treeBitsTaken 1 (withWork (.getToken st) s)) := by
    rw [getTokenTick, hrest]
    exact internalToken_of_next st h.answers hrest hc
  refine ⟨_, rfl, Reading.past (by simpa using h) _, toNat_nodeCount_tokensRead _ hc, fun k => ?_⟩
  rw [h.run_getToken, htick]
  simp [internalAllocated, treeBitsTaken, bitsTaken, tokensRead, withWork, encode, State.setNode]

/-- The deserializer at a LEAF token (R142). -/
theorem Reading.run_leaf {s : State} {v : Nat} {rest : Bits} (h : Reading s (encode (.leaf v) ++ rest)) (hv : v < 512)
    (hc : s.nodeCount.toNat < 513) (st : List Frame) :
    run 1 (withWork (.getToken st) s) = closeSubtree s.nodeCount st (tokensRead [.leaf v]
      (s.setNode s.nodeCount ⟨true, BitVec.ofNat 10 v, 0, Config.nil, Config.nil⟩).node s) := by
  have hrest : (withWork (.getToken st) s).bsrcRest = true :: (bitsN 9 v ++ rest) := h.rest
  have hval : num ((bitsN 9 v ++ rest).take 9) = v := by rw [take_bitsN_append, num_bitsN_of_lt hv]
  have htick : getTokenTick st (withWork (.getToken st) s) =
      closeSubtree s.nodeCount st (leafRead v st (withWork (.getToken st) s)) := by
    rw [getTokenTick, hrest]
    dsimp only
    rw [hval]
    exact leafToken_of_next st h.answers hv hrest hc
  have hread : leafRead v st (withWork (.getToken st) s) = withWork (.getValue s.nodeCount st) (tokensRead [.leaf v]
      (s.setNode s.nodeCount ⟨true, BitVec.ofNat 10 v, 0, Config.nil, Config.nil⟩).node s) := by
    simp [leafRead, tokensRead, withWork, encode]
  rw [h.run_getToken, htick, hread, closeSubtree_withWork]
  rfl

/-! ## A whole subtree -/

/-- `u` is `s` with the tree `t` parsed into the next pool entries, in preorder and with weights 0 (R142). -/
structure ParsedInto (t : HTree) (s u : State) : Prop where
  tree  : IsTree u.nodeAt s.nodeCount t ((List.range' s.nodeCount.toNat t.size).map (BitVec.ofNat 10))
  kept  : ∀ i : NodeIdx, i.toNat < s.nodeCount.toNat → u.nodeAt i = s.nodeAt i
  fresh : ∀ i : NodeIdx, s.nodeCount.toNat ≤ i.toNat → i.toNat < s.nodeCount.toNat + t.size →
            (u.nodeAt i).weight = 0 ∧ ((u.nodeAt i).isLeaf = false → (u.nodeAt i).value = Config.internalValue)

/-- The indices of the pool from `c` on, as numbers. -/
theorem bounds_of_mem_indices_from {c n : Nat} (hn : c + n ≤ 1024) {i : NodeIdx}
    (hi : i ∈ (List.range' c n).map (BitVec.ofNat 10)) : c ≤ i.toNat ∧ i.toNat < c + n := by
  obtain ⟨k, hk, rfl⟩ := List.mem_map.mp hi
  rw [List.mem_range'_1] at hk
  rw [BitVec.toNat_ofNat, Nat.mod_eq_of_lt (by omega)]
  exact hk

theorem parsedInto_leaf {s u : State} (v : BitVec 10) (hc : s.nodeCount.toNat < 513)
    (hu : u.node = (s.setNode s.nodeCount ⟨true, v, 0, Config.nil, Config.nil⟩).node) :
    ParsedInto (.leaf v) s u := by
  have hself : u.nodeAt s.nodeCount = ⟨true, v, 0, Config.nil, Config.nil⟩ :=
    (nodeAt_congr hu _).trans (nodeAt_setNode_self s _ _ hc)
  have hids : (List.range' s.nodeCount.toNat (HTree.leaf v).size).map (BitVec.ofNat 10) = [s.nodeCount] := by
    simp [HTree.size]
  refine ⟨hids ▸ .leaf _ _ (by rw [hself]) (by rw [hself]), fun i hi => ?_, fun i hle hlt => ?_⟩
  · exact (nodeAt_congr hu i).trans (nodeAt_setNode_ne s _ (by rintro rfl; exact Nat.lt_irrefl _ hi))
  · obtain rfl : i = s.nodeCount := BitVec.eq_of_toNat_eq (by rw [HTree.size] at hlt; omega)
    rw [hself]
    exact ⟨rfl, nofun⟩

/-- An internal node at the next entry, its two subtrees parsed behind it, and its children filled in when both are (R142). -/
theorem parsedInto_node {l r : HTree} {s s₁ s₂ s₃ u : State} (hc : s.nodeCount.toNat + (l.size + r.size + 1) ≤ 513)
    (h₁ : s₁.node = (s.setNode s.nodeCount ⟨false, Config.internalValue, 0, Config.nil, Config.nil⟩).node)
    (hc₁ : s₁.nodeCount.toNat = s.nodeCount.toNat + 1) (hl : ParsedInto l s₁ s₂)
    (hc₂ : s₂.nodeCount.toNat = s.nodeCount.toNat + 1 + l.size) (hr : ParsedInto r s₂ s₃)
    (hu : u.node = (s₃.setNode s.nodeCount
      { s₃.nodeAt s.nodeCount with left := s₁.nodeCount, right := s₂.nodeCount }).node) :
    ParsedInto (.node l r) s u := by
  have hne : ∀ {i : NodeIdx}, i.toNat ≠ s.nodeCount.toNat → s.nodeCount ≠ i := fun h e => h (by rw [e])
  have hself : u.nodeAt s.nodeCount = ⟨false, Config.internalValue, 0, s₁.nodeCount, s₂.nodeCount⟩ := by
    rw [nodeAt_congr hu, nodeAt_setNode_self _ _ _ (by omega), hr.kept _ (by omega), hl.kept _ (by omega),
      nodeAt_congr h₁, nodeAt_setNode_self _ _ _ (by omega)]
  have hother : ∀ i : NodeIdx, i.toNat ≠ s.nodeCount.toNat → u.nodeAt i = s₃.nodeAt i := fun i hi =>
    (nodeAt_congr hu i).trans (nodeAt_setNode_ne _ _ (hne hi))
  have hleft : ∀ i : NodeIdx, i.toNat ≠ s.nodeCount.toNat → i.toNat < s₂.nodeCount.toNat →
      u.nodeAt i = s₂.nodeAt i := fun i hi hlt => (hother i hi).trans (hr.kept i hlt)
  have hids : (List.range' s.nodeCount.toNat (HTree.node l r).size).map (BitVec.ofNat 10) =
      s.nodeCount :: ((List.range' s₁.nodeCount.toNat l.size).map (BitVec.ofNat 10) ++
        (List.range' s₂.nodeCount.toNat r.size).map (BitVec.ofNat 10)) := by
    rw [HTree.size, List.range'_succ, List.map_cons, BitVec.ofNat_toNat, BitVec.setWidth_eq, hc₁, hc₂, ← List.map_append,
      ← List.range'_append_1]
  refine ⟨hids ▸ .node _ _ _ _ _ (by rw [hself]) ?_ ?_, fun i hi => ?_, fun i hle hlt => ?_⟩
  · rw [hself]
    refine hl.tree.congr fun i hi => ?_
    have := bounds_of_mem_indices_from (by omega) hi
    exact hleft i (by omega) (by omega)
  · rw [hself]
    refine hr.tree.congr fun i hi => ?_
    have := bounds_of_mem_indices_from (by omega) hi
    exact hother i (by omega)
  · rw [hleft i (by omega) (by omega), hl.kept i (by omega), nodeAt_congr h₁, nodeAt_setNode_ne _ _ (hne (by omega))]
  · rw [HTree.size] at hlt
    rcases Nat.eq_or_lt_of_le hle with heq | hgt
    · obtain rfl : s.nodeCount = i := BitVec.eq_of_toNat_eq heq
      rw [hself]
      exact ⟨rfl, fun _ => rfl⟩
    · rcases Nat.lt_or_ge i.toNat s₂.nodeCount.toNat with hlt₂ | hge₂
      · rw [hleft i (by omega) hlt₂]
        exact hl.fresh i (by omega) (by omega)
      · rw [hother i (by omega)]
        exact hr.fresh i hge₂ (by omega)

/-- The deserializer reads a subtree and closes it (R142). -/
theorem Reading.run_tree (t : HTree) {s : State} {rest : Bits} (h : Reading s (t.tokens.flatMap encode ++ rest))
    (hc : s.nodeCount.toNat + t.size ≤ 513) (st : List Frame) : ∃ pool,
    run t.size (withWork (.getToken st) s) = closeSubtree s.nodeCount st (tokensRead t.tokens pool s) ∧
      ParsedInto t.nineBits s (tokensRead t.tokens pool s) := by
  induction t generalizing s rest st with
  | leaf v =>
    have hlt : s.nodeCount.toNat < 513 := hc
    have hleaf : Reading s (encode (.leaf (v.toNat % 512)) ++ rest) := by simpa [HTree.tokens] using h
    exact ⟨_, hleaf.run_leaf (Nat.mod_lt _ (by decide)) hlt st, parsedInto_leaf _ hlt rfl⟩
  | node l r ihl ihr =>
    have hsize : (HTree.node l r).size = l.size + r.size + 1 := rfl
    rw [hsize] at hc ⊢
    obtain ⟨p₁, hp₁, h₁, hc₁, hrun⟩ := Reading.run_internal (s := s)
      (rest := l.tokens.flatMap encode ++ (r.tokens.flatMap encode ++ rest)) (by simpa [HTree.tokens] using h) (by omega) st
    obtain ⟨p₂, hleft, hl⟩ := ihl h₁ (by omega) (⟨s.nodeCount, none⟩ :: st)
    have hc₂ := toNat_nodeCount_tokensRead_tree (s := tokensRead [.internal] p₁ s) (t := l) p₂ (by omega)
    rw [hc₁] at hc₂
    obtain ⟨p₃, hright, hr⟩ := ihr (h₁.past p₂) (by omega)
      (⟨s.nodeCount, some (tokensRead [.internal] p₁ s).nodeCount⟩ :: st)
    refine ⟨_, ?_, parsedInto_node (by simpa using hc) hp₁ hc₁ hl (by simpa using hc₂) hr rfl⟩
    rw [hrun, run_add, hleft]
    refine hright.trans ?_
    rw [closeSubtree, tokensRead_tokensRead, tokensRead_tokensRead, setNode_tokensRead]
    rfl

/-- Tokens of a tree that end inside its left subtree, or behind it. -/
theorem HTree.tokens_node_cases {l r : HTree} {a b : List Instr} (h : (HTree.node l r).tokens = a ++ b) :
    a = [] ∨ (∃ a' b', a = .internal :: a' ∧ l.tokens = a' ++ b' ∧ b' ≠ []) ∨
      ∃ a', a = .internal :: (l.tokens ++ a') ∧ r.tokens = a' ++ b := by
  cases a with
  | nil => exact .inl rfl
  | cons i a =>
    obtain ⟨rfl, h'⟩ : Instr.internal = i ∧ l.tokens ++ r.tokens = a ++ b := List.cons.inj h
    rcases List.append_eq_append_iff.mp h' with ⟨a', rfl, hr⟩ | ⟨b', hl, rfl⟩
    · exact .inr (.inr ⟨a', rfl, hr⟩)
    · by_cases hb : b' = []
      · subst hb
        exact .inr (.inr ⟨[], by rw [hl]; simp, rfl⟩)
      · exact .inr (.inl ⟨a, b', rfl, hl, hb⟩)

/-- The deserializer reads a part of a subtree's tokens and is at the next one (R142). -/
theorem Reading.run_tokens (t : HTree) {s : State} {a b : List Instr} {rest : Bits}
    (h : Reading s (a.flatMap encode ++ rest)) (hab : t.tokens = a ++ b) (hb : b ≠ [])
    (hc : s.nodeCount.toNat + a.length ≤ 513) (st : List Frame) : ∃ st' pool,
    run a.length (withWork (.getToken st) s) = withWork (.getToken st') (tokensRead a pool s) := by
  induction t generalizing s a b rest st with
  | leaf v =>
    obtain ⟨rfl, -⟩ : a = [] ∧ b = _ := (List.append_eq_singleton_iff.mp hab.symm).resolve_right fun h => hb h.2
    exact ⟨st, s.node, by rw [tokensRead_nil]; rfl⟩
  | node l r ihl ihr =>
    rcases HTree.tokens_node_cases hab with rfl | ⟨a, b', rfl, hl, hb'⟩ | ⟨a, rfl, hr⟩
    · exact ⟨st, s.node, by rw [tokensRead_nil]; rfl⟩
    · rw [List.length_cons] at hc ⊢
      obtain ⟨p₁, -, h₁, hc₁, hrun⟩ := Reading.run_internal (s := s) (rest := a.flatMap encode ++ rest)
        (by simpa using h) (by omega) st
      obtain ⟨st', p₂, hleft⟩ := ihl h₁ hl hb' (by omega) (⟨s.nodeCount, none⟩ :: st)
      exact ⟨st', p₂, by rw [hrun, hleft, tokensRead_tokensRead]; rfl⟩
    · rw [List.length_cons, List.length_append, l.length_tokens] at hc ⊢
      obtain ⟨p₁, -, h₁, hc₁, hrun⟩ := Reading.run_internal (s := s)
        (rest := l.tokens.flatMap encode ++ (a.flatMap encode ++ rest)) (by simpa using h) (by omega) st
      obtain ⟨p₂, hleft, -⟩ := h₁.run_tree l (by omega) (⟨s.nodeCount, none⟩ :: st)
      have hc₂ := toNat_nodeCount_tokensRead_tree (s := tokensRead [.internal] p₁ s) (t := l) p₂ (by omega)
      rw [hc₁] at hc₂
      obtain ⟨st', p₃, hright⟩ := ihr (h₁.past p₂) hr hb (by omega)
        (⟨s.nodeCount, some (tokensRead [.internal] p₁ s).nodeCount⟩ :: st)
      refine ⟨st', p₃, ?_⟩
      rw [hrun, run_add, hleft]
      refine hright.trans ?_
      rw [tokensRead_tokensRead, tokensRead_tokensRead]
      rfl

/-! ## RDHDR -/

/-- `s` with RDHDR's preamble read (R143). -/
def headerBegun (s : State) : State := bitsTaken 32 (rdhdrStart s)

/-- The body of RDHDR up to its first token (R143). -/
theorem run_rdhdrStart {s : State} {rest : Bits} (h : EngineRuns s) (ha : Answers s.bsrc.replies)
    (hr : s.bsrcRest = bitsN 32 0xFACE8201 ++ rest) (k : Nat) :
    Reading (headerBegun s) rest ∧ run (k + 1) (rdhdrStart s) = run k (withWork (.getToken []) (headerBegun s)) := by
  have hget : get 32 .formatMismatch (rdhdrStart s) = .go (num (bitsN 32 0xFACE8201)) (headerBegun s) :=
    get_of_next (s := rdhdrStart s) _ ha hr
  have hm : num (bitsN 32 0xFACE8201) = Config.magicTree.toNat := num_bitsN_of_lt (by decide)
  have htick : tick (rdhdrStart s) = withWork (.getToken []) (headerBegun s) := by
    show getMagicTick _ = _
    rw [getMagicTick, hget]
    exact if_pos hm
  have hs : EngineRuns (rdhdrStart s) := ⟨h.busy, h.sched⟩
  refine ⟨⟨⟨h.busy, h.sched⟩, ha.tail, ?_⟩, ?_⟩
  · rw [headerBegun, bsrcRest_bitsTaken]
    exact (congrArg (List.drop 32) hr).trans (drop_bitsN_append ..)
  · rw [hs.run_succ k (nextReply_of_answers ha), htick]

/-- The whole body of RDHDR (R142, R143). -/
theorem run_rdhdrStart_tree {s : State} {t : HTree} {rest : Bits} (h : EngineRuns s) (ha : Answers s.bsrc.replies)
    (hr : s.bsrcRest = bitsN 32 0xFACE8201 ++ t.wire ++ rest) (ht : t.size ≤ 513) : ∃ pool,
    run (t.size + 1) (rdhdrStart s) = phaseDone
      { tokensRead t.tokens pool (headerBegun s) with root := 0, treeValid := true, treeSrc := true } ∧
    ParsedInto t.nineBits (headerBegun s) (tokensRead t.tokens pool (headerBegun s)) := by
  rw [List.append_assoc, ← t.flatMap_encode_tokens] at hr
  obtain ⟨hread, hrun⟩ := run_rdhdrStart h ha hr t.size
  obtain ⟨pool, htree, hparsed⟩ := hread.run_tree t (by simpa [headerBegun, bitsTaken, rdhdrStart] using ht) []
  exact ⟨pool, hrun.trans htree, hparsed⟩

/-- A tree in preorder from index 0 is all the pool holds (R39). -/
theorem holdsTree_of_preorder {u : State} {t : HTree} (hv : u.treeValid = true)
    (ht : IsTree u.nodeAt u.root t ((List.range t.size).map (BitVec.ofNat 10))) (hsize : t.size ≤ 513)
    (hc : u.nodeCount = BitVec.ofNat 10 t.size) (hl : u.leafCount = BitVec.ofNat 9 t.leaves) : HoldsTree u t := by
  have hleaves := t.size_add_one
  have hnodes : u.nodeCount.toNat = t.size := by rw [hc, BitVec.toNat_ofNat, Nat.mod_eq_of_lt (by omega)]
  have hnodup := (sorted_indices (n := t.size) (by omega)).imp fun h => BitVec.ne_of_lt h
  refine ⟨hv, ⟨_, ht, hnodup, ?_, fun i hi => ?_⟩, ?_, ?_⟩
  · rw [ht.length_ids, hnodes]
  · rw [hnodes]
    exact toNat_of_mem_indices (by omega) hi
  · rw [hnodes]
    exact hsize
  · rw [hl, BitVec.toNat_ofNat, Nat.mod_eq_of_lt (by omega)]

/-- The state in which RDHDR's body starts. -/
def rdhdrAccepted (s : State) : State := accept (commandWord .rdhdr) (.start .rdhdr) s

/-- Settles O37: the body reads the tree (`run_rdhdrStart_tree`), and its `done` ends the command. -/
theorem rdhdrReadsMagicAndTree : Obligations.RdhdrReadsMagicAndTree := by
  intro s tree rest hr ha hsize hcodes hrest
  obtain ⟨n, hrun, hparsed⟩ := run_rdhdrStart_tree (s := rdhdrAccepted s) (t := tree) ⟨nofun, hr.2⟩ ha hrest hsize
  have hexec := exec_of_run (i := .rdhdr) rfl hr (by unfold State.workBound; omega) hrun rfl
  rw [tree.nineBits_eq_self hcodes] at hparsed
  have htree : ∀ {u : State}, u.node = n → IsTree u.nodeAt 0 tree ((List.range tree.size).map (BitVec.ofNat 10)) := by
    intro u hu
    rw [List.range_eq_range']
    exact hparsed.tree.congr fun i _ => nodeAt_congr hu i
  refine ⟨n, hexec.trans ?_, ?_, ?_, fun i hi => ?_⟩
  · rw [phaseDone_last (by rfl)]
    simp only [tokensRead, headerBegun, bitsTaken, rdhdrStart, rdhdrAccepted, accept, complete, finished, HTree.length_tokens,
      HTree.leafTokens_tokens, HTree.flatMap_encode_tokens, BitVec.ofNat_add, zero_add, ← List.drop_one, List.drop_drop,
      Nat.add_assoc]
    rfl
  · exact holdsTree_of_preorder rfl (htree rfl) hsize rfl rfl
  · exact htree rfl
  · have hi' : (BitVec.ofNat 10 i.val).toNat = i.val := by rw [BitVec.toNat_ofNat, Nat.mod_eq_of_lt (by omega)]
    have hfresh := hparsed.fresh (BitVec.ofNat 10 i.val) (Nat.zero_le _)
      (by rw [hi']; exact hi.trans_eq (Nat.zero_add _).symm)
    rw [nodeAt_of_lt _ _ (by omega)] at hfresh
    simp only [hi'] at hfresh
    exact hfresh

/-! ## Errors inside the tree section -/

@[simp] theorem raise_nodeCount (e : ErrCode) (q : PortId) (s : State) : (raise e q s).nodeCount = s.nodeCount := by
  obtain ⟨f, n, d, h⟩ := raise_frame e q s
  rw [h]

/-- No bit is left for the flag of a token (R142, R143). -/
theorem getTokenTick_of_end {s : State} (st : List Frame) (ha : Answers s.bsrc.replies) (hr : s.bsrcRest = []) : ∃ pos,
    getTokenTick st s = raise .truncatedHeader .bsrc { s with
      bsrc := ⟨s.bsrc.bits, pos, s.bsrc.replies.tail⟩, draws := s.draws + 1 } := by
  obtain ⟨pos, hget⟩ := get_eos (n := 1) .truncatedHeader (nextReply_of_answers ha) (by rw [hr]; decide)
  exact ⟨pos, by rw [getTokenTick, hr]; dsimp only; rw [internalToken, getFlag, hget]⟩

/-- A LEAF token's value bits are cut short (R142, R143). -/
theorem getTokenTick_of_cut {s : State} {p : Bits} (st : List Frame) (ha : Answers s.bsrc.replies)
    (hr : s.bsrcRest = true :: p) (hp : p.length < 9) (hc : s.nodeCount.toNat < 513) : ∃ u pos,
    u = leafAllocated st (treeBitsTaken 1 s) ∧
    getTokenTick st s = raise .truncatedHeader .bsrc { u with
      bsrc := ⟨u.bsrc.bits, pos, u.bsrc.replies.tail⟩, draws := u.draws + 1 } := by
  have hrest : (leafAllocated st (treeBitsTaken 1 s)).bsrcRest = p :=
    (bsrcRest_treeBitsTaken 1 s).trans (by rw [hr]; rfl)
  obtain ⟨pos, hget⟩ := get_eos (s := leafAllocated st (treeBitsTaken 1 s)) (n := 9) .truncatedHeader
    (nextReply_of_answers ha.tail) (hrest ▸ hp)
  refine ⟨_, pos, rfl, ?_⟩
  rw [getTokenTick, hr]
  dsimp only
  rw [leafToken, getFlag_of_next ha hr hc]
  show leafValue _ _ _ (leafAllocated st (treeBitsTaken 1 s)) = _
  rw [leafValue, hget]

/-- A flag bit with no pool entry left (R142). -/
theorem getTokenTick_of_full {s : State} {b : Bool} {p : Bits} (st : List Frame) (ha : Answers s.bsrc.replies)
    (hr : s.bsrcRest = b :: p) (hc : 513 ≤ s.nodeCount.toNat) :
    getTokenTick st s = raise .treeCapacity .none (treeBitsTaken 1 s) := by
  have hget : get 1 .truncatedHeader s = .go (num [b]) (bitsTaken 1 s) := get_of_next (q := [b]) _ ha hr
  have hflag : getFlag s = .stop (raise .treeCapacity .none (treeBitsTaken 1 s)) := by
    rw [getFlag, hget]
    exact if_pos hc
  cases b with
  | false => rw [getTokenTick, hr]; dsimp only; rw [internalToken, hflag]
  | true => rw [getTokenTick, hr]; dsimp only; rw [leafToken, hflag]

/-- `s` after RDHDR is accepted and has read its preamble and the tokens `a`. -/
def headerRead (a : List Instr) (pool : Vector Node 513) (s : State) : State :=
  tokensRead a pool (headerBegun (rdhdrAccepted s))

/-- RDHDR that ends at the token after `a` (R142, R143). -/
theorem exec_rdhdr_of_tokens {s : State} {t : HTree} {a b : List Instr} {rest : Bits} (hr : Ready s)
    (ha : Answers s.bsrc.replies) (hab : t.tokens = a ++ b) (hb : b ≠ []) (hlen : a.length ≤ 513)
    (hrest : s.bsrcRest = bitsN 32 0xFACE8201 ++ (a.flatMap encode ++ rest)) : ∃ st pool,
    Reading (headerRead a pool s) rest ∧ (headerRead a pool s).nodeCount.toNat = a.length ∧
      ∀ u, getTokenTick st (withWork (.getToken st) (headerRead a pool s)) = u → u.phase = .idle →
        exec .rdhdr s = .next u := by
  have hc₀ : (headerBegun (rdhdrAccepted s)).nodeCount.toNat = 0 := rfl
  obtain ⟨hread, hrun⟩ := run_rdhdrStart (s := rdhdrAccepted s) ⟨nofun, hr.2⟩ ha hrest (a.length + 1)
  obtain ⟨st, pool, htokens⟩ := hread.run_tokens t hab hb (by omega) []
  have hpast : Reading (headerRead a pool s) rest := hread.past pool
  have hc : (headerRead a pool s).nodeCount.toNat = a.length := by
    rw [headerRead, toNat_nodeCount_tokensRead pool (by omega), hc₀, Nat.zero_add]
  refine ⟨st, pool, hpast, hc, fun u hu hidle => ?_⟩
  refine exec_of_run (i := .rdhdr) (n := a.length + 1 + 1) rfl hr (by unfold State.workBound; omega) ?_ hidle
  refine hrun.trans ?_
  rw [run_add, htokens]
  exact (hpast.run_getToken st 0).trans hu

theorem headerRead_counts (a : List Instr) (pool : Vector Node 513) (s : State) :
    (headerRead a pool s).bitsIn = BitVec.ofNat 64 (32 + (a.flatMap encode).length) ∧
      (headerRead a pool s).hdrBits = BitVec.ofNat 32 (a.flatMap encode).length :=
  ⟨(BitVec.ofNat_add ..).symm, BitVec.zero_add _⟩

/-- The counters when the flag bit of the next token is received too (R145). -/
theorem flag_headerRead_counts (a : List Instr) (pool : Vector Node 513) (s : State) :
    (treeBitsTaken 1 (headerRead a pool s)).bitsIn = BitVec.ofNat 64 (32 + ((a.flatMap encode).length + 1)) ∧
      (treeBitsTaken 1 (headerRead a pool s)).hdrBits = BitVec.ofNat 32 ((a.flatMap encode).length + 1) := by
  rw [← Nat.add_assoc, BitVec.ofNat_add, BitVec.ofNat_add (n := 32), ← (headerRead_counts a pool s).1,
    ← (headerRead_counts a pool s).2]
  exact ⟨rfl, rfl⟩

/-- A token that is cut short has none of its bits, or is a LEAF that has its flag bit; only these bits are received (R145). -/
theorem cut_token_cases {i : Instr} {p : Bits} (hi : i = .internal ∨ ∃ v < 512, i = .leaf v) (hp : p <+: encode i)
    (hne : p ≠ encode i) (ks : List Nat) :
    (p = [] ∧ bitsReceived (tokenReads i ++ ks) p.length = 0) ∨
      ∃ p', p = true :: p' ∧ p'.length < 9 ∧ bitsReceived (tokenReads i ++ ks) p.length = 1 := by
  cases p with
  | nil =>
    refine .inl ⟨rfl, ?_⟩
    rcases hi with rfl | ⟨v, -, rfl⟩ <;> exact bitsReceived_cons_of_lt _ Nat.one_pos
  | cons x p =>
    rcases hi with rfl | ⟨v, -, rfl⟩
    · exact absurd (hp.eq_of_length_le (Nat.le_add_left _ _)) hne
    · obtain ⟨rfl, hp'⟩ : x = true ∧ p <+: bitsN 9 v := List.cons_prefix_cons.mp hp
      have hlt : p.length < 9 := by
        by_contra hge
        exact hne (congrArg (true :: ·) (hp'.eq_of_length_le (by rw [length_bitsN]; omega)))
      refine .inr ⟨p, rfl, hlt, ?_⟩
      rw [tokenReads, List.length_cons, List.cons_append, bitsReceived_cons_of_le _ (Nat.le_add_left _ _),
        List.cons_append, bitsReceived_cons_of_lt _ (by omega)]

/-- Settles O39: the header is cut inside one token (`exists_cut_flatMap`), before its flag or inside its value bits
(`cut_token_cases`). -/
theorem rdhdrDetectsTruncation : Obligations.RdhdrDetectsTruncation := by
  intro s tree q hr ha hq hne hlen hrest
  rw [← tree.flatMap_encode_tokens] at hq hne
  obtain ⟨a, i, b, p, hab, rfl, hp, hpne⟩ := exists_cut_flatMap hq hne
  rw [tree.sum_take_reads_eq, hab] at hlen
  have hcap := length_of_cut_le hlen
  have hk : bitsReceived tree.reads.flatten (a.flatMap encode ++ p).length =
      (a.flatMap encode).length + bitsReceived (tokenReads i ++ b.flatMap tokenReads) p.length := by
    have hle : (a.flatMap tokenReads).sum ≤ (a.flatMap encode ++ p).length := by
      rw [sum_flatMap_tokenReads, List.length_append]
      exact Nat.le_add_right ..
    rw [← tree.map_tokenReads_tokens, ← List.flatMap_def, hab, List.flatMap_append, bitsReceived_append _ _ hle,
      sum_flatMap_tokenReads, List.length_append, Nat.add_sub_cancel_left, List.flatMap_cons]
  obtain ⟨st, pool, hread, hc, hexec⟩ := exec_rdhdr_of_tokens hr ha hab (List.cons_ne_nil _ _) (by omega) hrest
  rw [hk]
  rcases cut_token_cases (tree.mem_tokens (hab ▸ by simp)) hp hpne (b.flatMap tokenReads) with
    ⟨rfl, hbits⟩ | ⟨p, rfl, hlt, hbits⟩
  · obtain ⟨pos, htick⟩ := getTokenTick_of_end (s := withWork (.getToken st) (headerRead a pool s)) st hread.answers
      hread.rest
    refine ⟨_, hexec _ htick rfl, rfl, rfl, rfl, ?_⟩
    rw [raise_treeValid, raise_bitsIn, raise_hdrBits, hbits]
    exact ⟨rfl, rfl, headerRead_counts a pool s⟩
  · have hlt513 : a.length < 513 := hcap.resolve_right nofun
    obtain ⟨u, pos, rfl, htick⟩ := getTokenTick_of_cut (s := withWork (.getToken st) (headerRead a pool s)) st
      hread.answers hread.rest hlt (hc.trans_lt hlt513)
    refine ⟨_, hexec _ htick rfl, rfl, rfl, rfl, ?_⟩
    rw [raise_treeValid, raise_bitsIn, raise_hdrBits, hbits]
    exact ⟨rfl, rfl, flag_headerRead_counts a pool s⟩

/-- Settles O40: after 513 tokens the flag bit of the next one finds the pool full (`getTokenTick_of_full`). -/
theorem rdhdrRejectsOversizedTrees : Obligations.RdhdrRejectsOversizedTrees := by
  intro s tree rest hr ha hsize k hrest
  obtain ⟨a, i, b, hab, hlen⟩ := exists_token_at hsize
  obtain ⟨x, y, hx⟩ := List.exists_cons_of_ne_nil (List.ne_nil_of_length_pos (one_le_length_encode i))
  have hk : k = (a.flatMap encode).length + 1 := by
    rw [← List.take_left' hlen, ← hab]
    exact congrArg (· + 1) (tree.sum_take_reads_eq 513)
  have hwire : tree.wire.take k = a.flatMap encode ++ [x] := by
    rw [← tree.flatMap_encode_tokens, hab, List.flatMap_append, List.flatMap_cons, hx, hk, List.take_length_add_append]
    rfl
  have hnext : s.bsrcRest = bitsN 32 0xFACE8201 ++ (a.flatMap encode ++ x :: rest) := by
    rw [hrest, hwire]
    simp
  obtain ⟨st, pool, hread, hc, hexec⟩ := exec_rdhdr_of_tokens hr ha hab (List.cons_ne_nil _ _) hlen.le hnext
  have htick := getTokenTick_of_full (s := withWork (.getToken st) (headerRead a pool s)) st hread.answers hread.rest
    (hc.trans hlen).ge
  refine ⟨_, hexec _ htick rfl, rfl, rfl, rfl, ?_⟩
  rw [raise_treeValid, raise_nodeCount, raise_bitsIn, raise_hdrBits, hk]
  exact ⟨rfl, BitVec.eq_of_toNat_eq (hc.trans hlen), rfl, flag_headerRead_counts a pool s⟩

/-! ## A header read back -/

/-- A tree with an internal root has two leaves or more. -/
theorem IsTree.two_le_leaves {pool : NodeIdx → Node} {i : NodeIdx} {t : HTree} {ids : List NodeIdx}
    (h : IsTree pool i t ids) (hn : (pool i).isLeaf = false) : 2 ≤ t.leaves := by
  cases h with
  | leaf _ _ hl _ => simp [hl] at hn
  | node _ l r => exact Nat.add_le_add l.one_le_leaves r.one_le_leaves

/-- Settles O41: WRHDR writes the magic number and the tree (O36), RDHDR reads them back (O37), and both pools hold the tree whose
code table GENCODES makes (O34). -/
theorem headerIdempotence : Obligations.HeaderIdempotence := by
  intro s w r tree out rest hs ht hcodes hsnk hw hout hr hsrc hrest
  obtain ⟨hlen, hwrite⟩ := wrhdrWritesMagicAndTree s tree hs ht hsnk
  obtain rfl := Host.Outcome.next.inj (hw.symm.trans hwrite)
  obtain rfl : bitsN 32 0xFACE8201 ++ tree.wire = out := List.append_cancel_left ((List.append_assoc ..).symm.trans hout)
  obtain ⟨ids, htree, -, hids, -⟩ := ht.tree
  have hsize : tree.size ≤ 513 := by
    rw [← htree.length_ids, hids]
    exact ht.capacity
  obtain ⟨n, hread, hheld, hpre, -⟩ := rdhdrReadsMagicAndTree r tree rest hr hsrc hsize hcodes hrest
  refine ⟨by rw [List.length_append, length_bitsN, hlen], _, hread, hheld, ?_, fun hroot => ?_⟩
  · show r.bsrc.bits.drop (r.bsrc.pos + 32 + tree.wire.length) = rest
    rw [Nat.add_assoc, ← List.drop_drop]
    show r.bsrcRest.drop _ = rest
    rw [hrest]
    exact List.drop_left' (by rw [List.length_append, length_bitsN])
  · have htwo := htree.two_le_leaves hroot
    exact ⟨_, _, gencodesRecordsLeafPaths s tree hs ht hroot,
      gencodesRecordsLeafPaths _ tree ⟨rfl, hr.2⟩ hheld (hpre.root_internal_of_two htwo), rfl⟩

end Sys2Proof.Machine

/-! # ENCODE without a code

ENCODE ends at the first byte that has no code, or at the end of the input where the sentinel has none (R161). -/

namespace Sys2Proof.Machine

section

variable {s : State} (h : EngineRuns s) (ha : Answers s.src.replies)
include h ha

/-- ENCODE reads a byte that has no code (R161). -/
theorem run_encodeRead_byte_missing {b : Byte} (hb : s.src.data[s.src.pos]? = some b) (hc : s.codeOf b = []) :
    run 1 (withWork .encodeRead s) = raise .missingCode .none (byteTaken (withWork .encodeRead s)) := by
  rw [h.run_withWork .encodeRead 0 (nextReply_of_answers ha)]
  show encodeReadTick (withWork .encodeRead s) = _
  rw [encodeReadTick, srcRead_data (s := withWork .encodeRead s) (nextReply_of_answers ha) hb]
  exact if_pos (List.isEmpty_iff.mpr hc)

/-- ENCODE meets the end of the input where the sentinel has no code (R161). -/
theorem run_encodeRead_end_missing (hb : s.src.data.length ≤ s.src.pos) (hc : s.eofCode = []) :
    run 1 (withWork .encodeRead s) = raise .missingCode .none (endTaken (withWork .encodeRead s)) := by
  rw [h.run_withWork .encodeRead 0 (nextReply_of_answers ha)]
  show encodeReadTick (withWork .encodeRead s) = _
  rw [encodeReadTick, srcRead_eos (s := withWork .encodeRead s) (nextReply_of_answers ha) hb]
  exact if_pos (List.isEmpty_iff.mpr hc)

/-- ENCODE's first bytes, all of which have codes (R161). -/
theorem run_encodeStart_bytes (bs post : List Byte) (hv : s.codesValid = true) (hk : Answers s.bsnk.replies)
    (hd : s.src.data = bs ++ post) (hc : ∀ b ∈ bs, s.codeOf b ≠ []) :
    run (2 * bs.length + 1) (encodeStart s) = withWork .encodeRead (bytesEncoded bs (rewound s)) := by
  rw [run_encode_rewind _ h hv ha]
  exact run_encodeRead bs post (s := rewound s) ⟨h.busy, h.sched⟩ ha.tail hk hd hc

end

/-- ENCODE that ends at the read after the bytes `bs`. -/
theorem exec_encode_of_read {s t : State} (bs post : List Byte) (hr : Ready s) (hv : s.codesValid = true)
    (ha : Answers s.src.replies) (hk : Answers s.bsnk.replies) (hd : s.src.data = bs ++ post)
    (hc : ∀ b ∈ bs, s.codeOf b ≠ [])
    (hread : run 1 (withWork .encodeRead
      (bytesEncoded bs (rewound (accept (commandWord .encode) (.start .encode) s)))) = t)
    (ht : t.phase = .idle) : exec .encode s = .next t := by
  have hlen := congrArg List.length hd
  rw [List.length_append] at hlen
  have hbound : 2 * bs.length + 1 + 1 < s.workBound := by unfold State.workBound; omega
  refine exec_of_run (i := .encode) rfl hr hbound ?_ ht
  rw [run_add]
  exact (congrArg (run 1) (run_encodeStart_bytes (s := accept (commandWord .encode) (.start .encode) s) ⟨nofun, hr.2⟩ ha
    bs post hv hk hd hc)).trans hread

/-- Settles O43: the bytes before are encoded (`run_encodeStart_bytes`), and the next read meets no code. -/
theorem encodeRaisesMissingCode : Obligations.EncodeRaisesMissingCode := by
  intro s hr hv ha hk
  have hruns : ∀ bs, EngineRuns (bytesEncoded bs (rewound (accept (commandWord .encode) (.start .encode) s))) :=
    fun _ => ⟨nofun, hr.2⟩
  refine ⟨fun pre post b hd hc hb => ?_, fun hc he => ?_⟩
  · have hnext : s.src.data[0 + pre.length]? = some b := by simp [hd]
    have hread := run_encodeRead_byte_missing (hruns pre) (ha.tail.drop _) hnext hb
    refine (exec_encode_of_read pre (b :: post) hr hv ha hk hd hc hread rfl).trans ?_
    rw [raise_of_filling_none _ _ _ (by exact nofun) rfl]
    simp only [byteTaken, withWork, bytesEncoded, bitsPut, rewound, accept, failed, finished, List.tail_drop,
      List.drop_tail, BitVec.ofNat_add, zero_add]
    rfl
  · have hread := run_encodeRead_end_missing (hruns s.src.data) (ha.tail.drop _) (Nat.le_add_left ..) he
    refine (exec_encode_of_read s.src.data [] hr hv ha hk (List.append_nil _).symm hc hread rfl).trans ?_
    rw [raise_of_filling_none _ _ _ (by exact nofun) rfl]
    simp only [endTaken, withWork, bytesEncoded, bitsPut, rewound, accept, failed, finished, List.tail_drop,
      List.drop_tail, zero_add]
    rfl

end Sys2Proof.Machine

/-! # The runs of DECODE

What DECODE does from its start to the sentinel or to the end of a stream that has none (R162, R163), of any BUSY state. A walk is told by
the node it arrives at (`IsTree.run_arrive`), so that a whole path and a path that is cut short are one fact. -/

namespace Sys2Proof.Machine

/-! ## Paths -/

/-- The paths of some leaves, one after another. -/
abbrev pathBits (syms : List (BitVec 10 × Bits)) : Bits := (syms.map Prod.snd).flatten

/-- The bytes DECODE writes for some leaves: the low 8 bits of their values (R163). -/
abbrev lowBytes (syms : List (BitVec 10 × Bits)) : List Byte := syms.map fun c => c.1.setWidth 8

theorem pathBits_cons (c : BitVec 10 × Bits) (syms : List (BitVec 10 × Bits)) :
    pathBits (c :: syms) = c.2 ++ pathBits syms := rfl

/-- Where an empty path ends there is the leaf. -/
theorem IsTree.leaf_of_mem_codes {pool : NodeIdx → Node} {i : NodeIdx} {t : HTree} {ids : List NodeIdx}
    (h : IsTree pool i t ids) {v : BitVec 10} (hc : (v, []) ∈ t.codes) :
    (pool i).isLeaf = true ∧ (pool i).value = v := by
  cases h with
  | leaf _ _ hl hv =>
    obtain ⟨rfl, -⟩ := Prod.mk.inj (List.mem_singleton.mp hc)
    exact ⟨hl, hv⟩
  | node => rcases HTree.mem_codes_node.mp hc with ⟨c, -, hc⟩ | ⟨c, -, hc⟩ <;> cases hc

/-- Where a path goes on there is an internal node. -/
theorem IsTree.internal_of_mem_codes {pool : NodeIdx → Node} {i : NodeIdx} {t : HTree} {ids : List NodeIdx}
    (h : IsTree pool i t ids) {v : BitVec 10} {p : Bits} (hc : (v, p) ∈ t.codes) (hp : p ≠ []) :
    (pool i).isLeaf = false := by
  cases h with
  | leaf => exact absurd (Prod.mk.inj (List.mem_singleton.mp hc)).2 hp
  | node _ _ _ _ _ hn => exact hn

/-! ## Where a walk arrives -/

/-- `s` after DECODE has read `k` bits, one at a time, and written the bytes `bs`, all answered: consumed and counted (R163). -/
def decoded (bs : List Byte) (k : Nat) (s : State) : State :=
  { s with
    bitsIn := s.bitsIn + BitVec.ofNat 64 k, bytesOut := s.bytesOut + BitVec.ofNat 32 bs.length
    bsrc := ⟨s.bsrc.bits, s.bsrc.pos + k, s.bsrc.replies.drop k⟩
    bysnk := ⟨s.bysnk.bytes ++ bs, s.bysnk.replies.drop bs.length⟩ }

theorem decoded_nil (s : State) : decoded [] 0 s = s := by
  simp [decoded]

theorem decoded_decoded (bs cs : List Byte) (k m : Nat) (s : State) :
    decoded cs m (decoded bs k s) = decoded (bs ++ cs) (k + m) s := by
  simp only [decoded, List.append_assoc, List.drop_drop, List.length_append, BitVec.ofNat_add, BitVec.add_assoc,
    Nat.add_assoc]

@[simp] theorem nodeAt_decoded (bs : List Byte) (k : Nat) (s : State) : (decoded bs k s).nodeAt = s.nodeAt :=
  funext (nodeAt_congr rfl)

/-- Behind the bits read the next bits stand. -/
theorem Reading.past_decoded {s : State} {q rest : Bits} (h : Reading s (q ++ rest)) (bs : List Byte) :
    Reading (decoded bs q.length s) rest where
  runs := ⟨h.runs.busy, h.runs.sched⟩
  answers := h.answers.drop _
  rest := by
    have hrest : (decoded bs q.length s).bsrcRest = s.bsrcRest.drop q.length := bsrcRest_advance s _ _
    rw [hrest, h.rest, List.drop_left]

/-- Where the pointer arrives does not depend on what the engine was at. -/
theorem arrive_withWork (i : NodeIdx) (w : Work) (s : State) : arrive i (withWork w s) = arrive i s := by
  have hdone : phaseDone { withWork w s with eosSeen := true } = phaseDone { s with eosSeen := true } :=
    phaseDone_withWork w { s with eosSeen := true }
  simp only [arrive, nodeAt_withWork, hdone]
  rfl

theorem arrive_internal {s : State} {i : NodeIdx} (hn : (s.nodeAt i).isLeaf = false) :
    arrive i s = withWork (.decodeBit i) s := by
  simp only [arrive, hn]
  rfl

theorem arrive_byte {s : State} {i : NodeIdx} (hl : (s.nodeAt i).isLeaf = true) (hv : (s.nodeAt i).value.toNat ≠ 256) :
    arrive i s = withWork (.decodeByte ((s.nodeAt i).value.setWidth 8)) s := by
  simp only [arrive, hl, if_neg hv]
  rfl

theorem arrive_sentinel {s : State} {i : NodeIdx} (hl : (s.nodeAt i).isLeaf = true)
    (hv : (s.nodeAt i).value.toNat = 256) : arrive i s = phaseDone { s with eosSeen := true } := by
  simp only [arrive, hl, hv]
  rfl

/-! ## The walk -/

/-- One bit of the walk (R162). -/
theorem Reading.run_bit {s : State} {b : Bool} {rest : Bits} (h : Reading s (b :: rest)) {i : NodeIdx}
    (hn : (s.nodeAt i).isLeaf = false) (k : Nat) :
    run (k + 1) (arrive i s) = run k (arrive (s.descend i b.toNat) (decoded [] 1 s)) := by
  have hget : get 1 .truncatedBody (withWork (.decodeBit i) s) =
      .go (num [b]) (bitsTaken 1 (withWork (.decodeBit i) s)) :=
    get_of_next (q := [b]) _ h.answers h.rest
  have hnum : num [b] = b.toNat := by simp [num_cons]
  have htaken : bitsTaken 1 (withWork (.decodeBit i) s) = withWork (.decodeBit i) (decoded [] 1 s) := by
    simp [bitsTaken, withWork, decoded]
  have hdescend : (bitsTaken 1 (withWork (.decodeBit i) s)).descend i b.toNat = s.descend i b.toNat := by
    simp only [State.descend, nodeAt_congr (s := bitsTaken 1 (withWork (.decodeBit i) s)) (t := s) rfl]
  rw [arrive_internal hn, h.runs.run_withWork (.decodeBit i) k (nextReply_of_answers h.answers)]
  congr 1
  show decodeBitTick i (withWork (.decodeBit i) s) = _
  rw [decodeBitTick, hget]
  dsimp only
  rw [hnum, hdescend, htaken, arrive_withWork]

/-- No bit is left for the walk (R163). -/
theorem Reading.run_bit_end {s : State} (h : Reading s []) (i : NodeIdx) : ∃ pos,
    run 1 (withWork (.decodeBit i) s) = raise .truncatedBody .bsrc { withWork (.decodeBit i) s with
      bsrc := ⟨s.bsrc.bits, pos, s.bsrc.replies.tail⟩, draws := s.draws + 1 } := by
  have hnil : (withWork (.decodeBit i) s).bsrcRest = [] := h.rest
  obtain ⟨pos, hget⟩ := get_eos (s := withWork (.decodeBit i) s) (n := 1) .truncatedBody
    (nextReply_of_answers h.answers) (by rw [hnil]; exact Nat.one_pos)
  refine ⟨pos, ?_⟩
  rw [h.runs.run_withWork (.decodeBit i) 0 (nextReply_of_answers h.answers)]
  show decodeBitTick i (withWork (.decodeBit i) s) = _
  rw [decodeBitTick, hget]
  rfl

/-- The walk along a part of a path, from the subtree where it starts to the subtree where the rest of the path starts (R162). -/
theorem IsTree.run_arrive {pool : NodeIdx → Node} {i : NodeIdx} {t : HTree} {ids : List NodeIdx} (ht : IsTree pool i t ids)
    {s : State} {v : BitVec 10} {q p rest : Bits} (hp : s.nodeAt = pool) (h : Reading s (q ++ rest))
    (hc : (v, q ++ p) ∈ t.codes) : ∃ j u is, IsTree pool j u is ∧ (v, p) ∈ u.codes ∧
      run q.length (arrive i s) = arrive j (decoded [] q.length s) := by
  induction ht generalizing s q with
  | leaf i v' hl hv =>
    obtain ⟨-, hnil⟩ := Prod.mk.inj (List.mem_singleton.mp hc)
    obtain ⟨rfl, rfl⟩ := List.append_eq_nil_iff.mp hnil
    exact ⟨i, _, _, .leaf i v' hl hv, hc, by rw [List.length_nil, decoded_nil]; rfl⟩
  | node i l r il ir hn htl htr ihl ihr =>
    subst hp
    cases q with
    | nil => exact ⟨i, _, _, .node i l r il ir hn htl htr, hc, by rw [List.length_nil, decoded_nil]; rfl⟩
    | cons b q =>
      have hstep := h.run_bit hn q.length
      have hnext : Reading (decoded [] 1 s) (q ++ rest) := h.past_decoded (q := [b]) []
      have hjoin : decoded [] q.length (decoded [] 1 s) = decoded [] (q.length + 1) s := by
        rw [decoded_decoded, Nat.add_comm]
        rfl
      rw [List.length_cons, hstep, ← hjoin]
      rcases HTree.mem_codes_node.mp hc with ⟨⟨w, r⟩, hmem, he⟩ | ⟨⟨w, r⟩, hmem, he⟩
      · cases he
        exact ihl (nodeAt_decoded [] 1 s) hnext hmem
      · cases he
        exact ihr (nodeAt_decoded [] 1 s) hnext hmem

/-- The walk along a whole path ends at its leaf (R162). -/
theorem IsTree.run_path {pool : NodeIdx → Node} {i : NodeIdx} {t : HTree} {ids : List NodeIdx} (ht : IsTree pool i t ids)
    {s : State} {v : BitVec 10} {p rest : Bits} (hp : s.nodeAt = pool) (h : Reading s (p ++ rest))
    (hc : (v, p) ∈ t.codes) : ∃ j, (pool j).isLeaf = true ∧ (pool j).value = v ∧
      run p.length (arrive i s) = arrive j (decoded [] p.length s) := by
  obtain ⟨j, u, is, hu, hmem, hrun⟩ := ht.run_arrive (p := []) hp h (by rwa [List.append_nil])
  obtain ⟨hl, hv⟩ := hu.leaf_of_mem_codes hmem
  exact ⟨j, hl, hv, hrun⟩

/-- DECODE writes a byte, and the walk starts again at the root (R163). -/
theorem EngineRuns.run_decodeByte {s : State} (h : EngineRuns s) (hk : Answers s.bysnk.replies)
    (hn : (s.nodeAt s.root).isLeaf = false) (v : Byte) :
    run 1 (withWork (.decodeByte v) s) = arrive s.root (decoded [v] 0 s) := by
  have hn' : ((decoded [v] 0 s).nodeAt s.root).isLeaf = false := by rwa [nodeAt_decoded]
  rw [h.run_withWork (.decodeByte v) 0 (nextReply_of_answers hk), arrive_internal hn']
  show decodeByteTick v (withWork (.decodeByte v) s) = _
  rw [decodeByteTick, byteWrite_ok (s := withWork (.decodeByte v) s) v (nextReply_of_answers hk)]
  simp [withWork, decoded]

section

variable {s : State} {t : HTree} {ids : List NodeIdx} (ht : IsTree s.nodeAt s.root t ids)
  (hn : (s.nodeAt s.root).isLeaf = false)
include ht

/-- DECODE from the root over the path of the sentinel's leaf (R163). -/
theorem IsTree.run_sentinel {eof rest : Bits} (h : Reading s (eof ++ rest)) (hc : (256, eof) ∈ t.codes) :
    run eof.length (arrive s.root s) = phaseDone { decoded [] eof.length s with eosSeen := true } := by
  obtain ⟨j, hl, hv, hrun⟩ := ht.run_path rfl h hc
  rw [hrun]
  exact arrive_sentinel (by rwa [nodeAt_decoded]) (by rw [nodeAt_decoded, hv]; rfl)

include hn

/-- DECODE from the root over the path of a leaf that is not the sentinel, and its byte (R163). -/
theorem IsTree.run_symbol {v : BitVec 10} {p rest : Bits} (h : Reading s (p ++ rest)) (hk : Answers s.bysnk.replies)
    (hc : (v, p) ∈ t.codes) (hv : v.toNat ≠ 256) :
    run (p.length + 1) (arrive s.root s) = arrive s.root (decoded [v.setWidth 8] p.length s) := by
  obtain ⟨j, hl, rfl, hrun⟩ := ht.run_path rfl h hc
  have hnode := nodeAt_decoded [] p.length s
  rw [run_add, hrun, arrive_byte (by rwa [hnode]) (by rwa [hnode]), hnode,
    (h.past_decoded []).runs.run_decodeByte hk (by rwa [hnode]), decoded_decoded]
  rfl

/-- DECODE from the root over the paths of leaves that are not the sentinel (R163). -/
theorem IsTree.run_symbols (syms : List (BitVec 10 × Bits)) {rest : Bits}
    (h : Reading s (pathBits syms ++ rest)) (hk : Answers s.bysnk.replies)
    (hc : ∀ c ∈ syms, c ∈ t.codes ∧ c.1.toNat ≠ 256) :
    run ((pathBits syms).length + syms.length) (arrive s.root s) =
      arrive s.root (decoded (lowBytes syms) (pathBits syms).length s) := by
  induction syms generalizing s with
  | nil => exact congrArg (arrive s.root) (decoded_nil s).symm
  | cons c syms ih =>
    rw [pathBits_cons, List.append_assoc] at h
    obtain ⟨hmem, hv⟩ := hc c List.mem_cons_self
    have hfuel : (pathBits (c :: syms)).length + (c :: syms).length =
        (c.2.length + 1) + ((pathBits syms).length + syms.length) := by
      simp only [pathBits_cons, List.length_append, List.length_cons]
      omega
    have hnode := nodeAt_decoded [c.1.setWidth 8] c.2.length s
    have hrest := ih (s := decoded [c.1.setWidth 8] c.2.length s) (hnode ▸ ht) (hnode ▸ hn) (h.past_decoded _) (hk.drop 1)
      fun d hd => hc d (List.mem_cons_of_mem c hd)
    rw [hfuel, run_add, ht.run_symbol hn h hk hmem hv]
    refine hrest.trans ?_
    rw [decoded_decoded, pathBits_cons, List.length_append]
    rfl

end

/-! ## The body -/

/-- DECODE starts its first walk at the root (R163). -/
theorem decodeStart_of_tree {s : State} (hv : s.treeValid = true) (hn : (s.nodeAt s.root).isLeaf = false) :
    decodeStart s = arrive s.root s := by
  rw [arrive_internal hn, decodeStart, if_neg (by simp [hv]), if_neg (by exact Bool.eq_false_iff.mp hn)]
  rfl

/-- A path from an internal root has a bit at least. -/
theorem HTree.length_le_paths {t : HTree} (h2 : 2 ≤ t.leaves) {syms : List (BitVec 10 × Bits)}
    (hc : ∀ c ∈ syms, c ∈ t.codes) : syms.length ≤ (pathBits syms).length := by
  induction syms with
  | nil => exact Nat.le_refl 0
  | cons c syms ih =>
    have hpos := List.length_pos_iff.mpr (HTree.path_ne_nil h2 c (hc c List.mem_cons_self))
    have hrest := ih fun d hd => hc d (List.mem_cons_of_mem c hd)
    simp only [pathBits_cons, List.length_append, List.length_cons]
    omega

section

variable {s : State} {t : HTree} (ht : HoldsTree s t) (hn : (s.nodeAt s.root).isLeaf = false)
  {syms : List (BitVec 10 × Bits)} (hk : Answers s.bysnk.replies) (hc : ∀ c ∈ syms, c ∈ t.codes ∧ c.1.toNat ≠ 256)
include ht hn hk hc

/-- The body of DECODE, from its start to its `done` (R162, R163). -/
theorem run_decodeStart {eof rest : Bits} (h : Reading s (pathBits syms ++ eof ++ rest))
    (he : (256, eof) ∈ t.codes) :
    run ((pathBits syms ++ eof).length + syms.length) (decodeStart s) = phaseDone
      { decoded (lowBytes syms) (pathBits syms ++ eof).length s with eosSeen := true } := by
  obtain ⟨ids, htree, -⟩ := ht.tree
  rw [List.append_assoc] at h
  have hsent := IsTree.run_sentinel (s := decoded (lowBytes syms) (pathBits syms).length s) (by rwa [nodeAt_decoded])
    (h.past_decoded _) he
  rw [decodeStart_of_tree ht.valid hn, List.length_append, Nat.add_right_comm, run_add, htree.run_symbols hn syms h hk hc]
  refine hsent.trans ?_
  rw [decoded_decoded, List.append_nil]

/-- The body of DECODE, from its start to the end of a stream that ends inside a path (R163). -/
theorem run_decodeStart_cut {v : BitVec 10} {p q : Bits} (h : Reading s (pathBits syms ++ q))
    (hv : (v, p) ∈ t.codes) (hq : q <+: p) (hne : q ≠ p) : ∃ j pos u,
    u = decoded (lowBytes syms) (pathBits syms ++ q).length s ∧
    run ((pathBits syms ++ q).length + syms.length + 1) (decodeStart s) =
      raise .truncatedBody .bsrc { withWork (.decodeBit j) u with
        bsrc := ⟨u.bsrc.bits, pos, u.bsrc.replies.tail⟩, draws := u.draws + 1 } := by
  obtain ⟨ids, htree, -⟩ := ht.tree
  obtain ⟨q', rfl⟩ := hq
  have hq' : q' ≠ [] := by
    rintro rfl
    exact hne (List.append_nil q).symm
  rw [← List.append_nil q] at h
  have hpast := h.past_decoded (lowBytes syms)
  obtain ⟨j, w, is, hw, hmem, hwalk⟩ := htree.run_arrive (nodeAt_decoded _ _ s) hpast hv
  have hj := hw.internal_of_mem_codes hmem hq'
  have hend := hpast.past_decoded []
  rw [arrive_internal (i := j) (by rwa [nodeAt_decoded, nodeAt_decoded])] at hwalk
  rw [decoded_decoded, List.append_nil, ← List.length_append] at hwalk hend
  obtain ⟨pos, hraise⟩ := hend.run_bit_end j
  refine ⟨j, pos, _, rfl, ?_⟩
  rw [decodeStart_of_tree ht.valid hn, run_add, List.length_append, Nat.add_right_comm, run_add,
    htree.run_symbols hn syms h hk hc, ← List.length_append]
  exact (congrArg (run 1) hwalk).trans hraise

end

/-! ## The command -/

/-- A body that BSRC holds is decoded well within the bound on a command's pieces of work, with room for a header's before it. -/
theorem decode_lt_workBound {s : State} {t : HTree} {syms : List (BitVec 10 × Bits)} {q : Bits} (h2 : 2 ≤ t.leaves)
    (hc : ∀ c ∈ syms, c ∈ t.codes) (hq : (pathBits syms ++ q).length ≤ s.bsrcRest.length) :
    1024 + (pathBits syms ++ q).length + syms.length < s.workBound := by
  have hsyms := HTree.length_le_paths h2 hc
  rw [State.bsrcRest, List.length_drop] at hq
  rw [List.length_append] at hq ⊢
  unfold State.workBound
  omega

/-- Settles O44: the run of the body (`run_decodeStart`), whose `done` ends the command. -/
theorem decodeWalksTheTree : Obligations.DecodeWalksTheTree := by
  intro s tree syms eof rest hr ht hn ha hk hc he hrest k
  obtain ⟨ids, htree, -⟩ := ht.tree
  have hbound := decode_lt_workBound (s := s) (q := eof) (htree.two_le_leaves hn) (fun c hm => (hc c hm).1)
    (by rw [hrest]; exact (List.prefix_append _ _).length_le)
  have hrun := run_decodeStart (s := accept (commandWord .decode) (.start .decode) s) (ht.congr rfl) hn hk hc
    ⟨⟨nofun, hr.2⟩, ha, hrest⟩ he
  refine (exec_of_run (i := .decode) rfl hr (by omega) hrun rfl).trans ?_
  rw [phaseDone_last (by rfl)]
  simp only [decoded, accept, complete, finished, List.length_map, zero_add]
  rfl

/-- Settles O45: the run of the body to the read that finds no bit (`run_decodeStart_cut`), whose error ends the command. -/
theorem decodeDetectsTruncation : Obligations.DecodeDetectsTruncation := by
  intro s tree syms v p q hr ht hn ha hk hc hv hq hne hrest
  obtain ⟨ids, htree, -⟩ := ht.tree
  have hbound := decode_lt_workBound (htree.two_le_leaves hn) (fun c hm => (hc c hm).1) (congrArg List.length hrest).ge
  obtain ⟨j, pos, u, rfl, hrun⟩ := run_decodeStart_cut (s := accept (commandWord .decode) (.start .decode) s)
    (ht.congr rfl) hn hk hc ⟨⟨nofun, hr.2⟩, ha, hrest⟩ hv hq hne
  refine ⟨pos, s.draws + 1, (exec_of_run (i := .decode) rfl hr (by omega) hrun rfl).trans ?_⟩
  rw [raise_of_filling_none _ _ _ (by exact nofun) rfl, hrest]
  simp only [withWork, decoded, accept, failed, finished, List.length_map, List.tail_drop, zero_add]
  rfl

end Sys2Proof.Machine

/-! # COMPRESS and DECOMPRESS as chains of phases

Each body, run as a phase of a composite command, takes the state `c` that the phases before it left to a state `d` and gives way to the
next phase (`PhaseRuns`); what COMPRESS and DECOMPRESS leave is chained from these (R182, R183), and the round trip of both (R164). -/

namespace Sys2Proof.Machine

/-! ## Phases -/

/-- `s` after the block has accepted command `i` (R191). -/
def accepted (i : Instr) (s : State) : State := accept (commandWord i) (.start i) s

/-- The body of `i`, as the phase before the phases `rest`, runs from `c` to its `done` in `n` pieces of work after its first, and leaves
`d`. -/
def PhaseRuns (i : Instr) (rest : List Instr) (n : Nat) (c d : State) : Prop :=
  run n (startBody i (beginPhase i rest c)) = phaseDone (beginPhase i rest d)

section

variable {i : Instr} {n : Nat} {c d : State}

theorem PhaseRuns.run_phaseDone {rest : List Instr} (h : PhaseRuns i rest n c d) (hs : c.sched = []) :
    run (n + 1) (beginPhase i rest c) = phaseDone (beginPhase i rest d) := by
  have hruns : EngineRuns (beginPhase i rest c) := ⟨nofun, hs⟩
  exact (hruns.run_succ n rfl).trans h

/-- A phase gives way to the next one (R182, R183). -/
theorem PhaseRuns.run_next {j : Instr} {rest : List Instr} (h : PhaseRuns i (j :: rest) n c d) (hs : c.sched = [])
    (k : Nat) :
    run (n + 1 + k) (beginPhase i (j :: rest) c) = run k (beginPhase j rest d) := by
  rw [run_add, h.run_phaseDone hs]
  rfl

/-- The last phase ends the command (R192). -/
theorem PhaseRuns.run_last (h : PhaseRuns i [] n c d) (hs : c.sched = []) : run (n + 1) (beginPhase i [] c) = complete d :=
  h.run_phaseDone hs

end

/-! ## COUNT, BUILD and GENCODES as phases -/

/-- `s` after COUNT has counted the whole input from its start (R100). -/
def inputCounted (s : State) : State :=
  { bytesCounted s.src.data s with
    freqValid := true
    src := ⟨s.src.data, s.src.data.length, s.src.replies.drop (s.src.data.length + 1)⟩ }

theorem phaseRuns_count {c : State} (rest : List Instr) (hs : c.sched = []) (ha : Answers c.src.replies)
    (hp : c.src.pos = 0) (hc : ∀ b, c.src.data.count b < 2 ^ c.params.wCount) :
    PhaseRuns .count rest (c.src.data.length + 1) c (inputCounted c) := by
  have hrun := run_countStart (s := beginPhase .count rest c) ⟨nofun, hs⟩ ha c.src.data
    (by show c.src.data.drop c.src.pos = _; rw [hp]; rfl) hc
  refine hrun.trans (congrArg phaseDone ?_)
  simp only [bytesCounted, inputCounted, beginPhase, hp, Nat.zero_add]

/-- BUILD's body reads FREQ and the pool alone (R116, R117). -/
theorem buildBody_congr {s t : State} (hf : t.freq = s.freq) (hn : t.node = s.node) :
    buildBody t = t.withBuilderOf (buildBody s) := by
  have hinit : buildInitBody t = t.withBuilderOf (buildInitBody s) := by
    simp only [buildInitBody_eq, queuedNodes, buildCleared, State.withBuilderOf, hf, hn]
  rw [buildBody, hinit]
  exact buildLoop_withBuilderOf _ _ _

theorem phaseRuns_build {c : State} (rest : List Instr) (hv : c.freqValid = true) :
    PhaseRuns .build rest 0 c (buildBody c) := by
  have hbody : buildBody (beginPhase .build rest c) = beginPhase .build rest (buildBody c) :=
    (buildBody_congr (s := c) (t := beginPhase .build rest c) rfl rfl).trans
      (congrArg (beginPhase .build rest) (builderOnly_buildBody c).symm)
  rw [PhaseRuns, ← hbody]
  exact if_pos hv

/-- `t` has a leaf for every byte of `bs` and one for the sentinel, and all its values fit the header's nine bits (R88, R114). -/
structure HTree.Covers (t : HTree) (bs : List Byte) : Prop where
  two      : 2 ≤ t.leaves
  nineBits : ∀ c ∈ t.codes, c.1.toNat < 512
  bytes    : ∀ b ∈ bs, b.toNat ∈ t.codes.map fun c => c.1.toNat
  sentinel : 256 ∈ t.codes.map fun c => c.1.toNat

theorem byte_mem_codedValues_byteCounts {bs : List Byte} {b : Byte} (hb : b ∈ bs) (hc : bs.count b < 2 ^ 32) :
    b.toNat ∈ codedValues (byteCounts bs) := by
  have hpos := List.count_pos_iff.mpr hb
  refine (byte_mem_codedValues (byteCounts bs) ⟨b.toNat, b.isLt⟩).mpr (.inl ?_)
  show (byteCounts bs)[b.toNat] ≠ 0
  rw [getElem_byteCounts, ne_eq, ← BitVec.toNat_inj, BitVec.toNat_ofNat, Nat.mod_eq_of_lt hc]
  exact hpos.ne'

/-- `s` as a block that is ready for BUILD. -/
def buildReady (s : State) : State := { s with phase := .idle, sched := [], freqValid := true }

/-- The tree BUILD's body makes of the counts of `bs` covers `bs` (R114, R116). -/
theorem buildBody_covers {c : State} {bs : List Byte} (hf : c.freq = byteCounts bs) (hc : ∀ b, bs.count b < 2 ^ 32) :
    ∃ tree, HoldsTree (buildBody c) tree ∧ tree.Covers bs := by
  obtain ⟨t, tree, hbuild, -, htree, h2, -, -, -, -, hperm, -⟩ := buildMakesAHuffmanTree (buildReady c) ⟨rfl, rfl⟩ rfl
  obtain rfl := Host.Outcome.next.inj ((exec_build (s := buildReady c) ⟨rfl, rfl⟩ rfl).symm.trans hbuild)
  have hvals : (tree.codes.map fun c => c.1.toNat).Perm (codedValues (byteCounts bs)) := by
    rw [← values_leavesOf, ← hf]
    show List.Perm _ ((leavesOf (buildReady c).freq).map _)
    simpa [Function.comp_def] using hperm.map BitVec.toNat
  refine ⟨tree, htree.congr ?_, h2, fun d hd => ?_, fun b hb => ?_, ?_⟩
  · rw [buildBody_congr (s := buildReady c) (t := c) rfl rfl]
    rfl
  · exact (lt_of_mem_codedValues (hvals.mem_iff.mp (List.mem_map_of_mem hd))).trans (by decide)
  · exact hvals.mem_iff.mpr (byte_mem_codedValues_byteCounts hb (hc b))
  · exact hvals.mem_iff.mpr (sentinel_mem_codedValues _)

/-- `s` after GENCODES has recorded the codes of `t` (R131). -/
def codesMade (t : HTree) (s : State) : State := { s with ct := t.codeTable, codesValid := true }

theorem phaseRuns_gencodes {c : State} {t : HTree} (rest : List Instr) (ht : HoldsTree c t) (h2 : 2 ≤ t.leaves) :
    PhaseRuns .gencodes rest 0 c (codesMade t c) := by
  obtain ⟨ids, htree, -⟩ := ht.tree
  have hn : (c.nodeAt c.root).isLeaf = false := htree.root_internal_of_two h2
  have hcodes : (beginPhase .gencodes rest c).generatedCodes = t.codeTable :=
    (ht.congr (u := beginPhase .gencodes rest c) rfl).generatedCodes_eq
  show gencodesStart (beginPhase .gencodes rest c) = _
  rw [gencodesStart, if_neg (by simp [beginPhase, ht.valid]), if_neg (by exact Bool.eq_false_iff.mp hn), hcodes]
  rfl

/-! ## WRHDR and ENCODE as phases -/

/-- `s` after WRHDR has written the header of `t` (R141). -/
def headerPut (t : HTree) (s : State) : State :=
  treeBitsPut t.wire (t.size + t.leaves) (bitsPut (bitsN 32 0xFACE8201) 1 s)

theorem phaseRuns_wrhdr {c : State} {t : HTree} (rest : List Instr) (hs : c.sched = []) (ht : HoldsTree c t)
    (ha : Answers c.bsnk.replies) : PhaseRuns .wrhdr rest (t.size + t.leaves + 1) c (headerPut t c) :=
  run_wrhdrStart (s := beginPhase .wrhdr rest c) (ht.congr rfl) ⟨nofun, hs⟩ ha

/-- The body of `bs` under the codes of `t`: the code of every byte and once the sentinel's (R160, R161). -/
def HTree.bodyOf (t : HTree) (bs : List Byte) : Bits := (bs.map fun b => t.codeOf b.toNat).flatten ++ t.codeOf 256

/-- `s` after ENCODE has written `body`, the body of the whole input (R161). -/
def inputEncoded (body : Bits) (s : State) : State :=
  { s with
    symIn := s.symIn + BitVec.ofNat 32 s.src.data.length
    bitsOut := s.bitsOut + BitVec.ofNat 64 body.length
    src := ⟨s.src.data, s.src.data.length, s.src.replies.drop (s.src.data.length + 2)⟩
    bsnk := ⟨s.bsnk.bits ++ body, s.bsnk.replies.drop (s.src.data.length + 1)⟩ }

/-- ENCODE with the codes of a tree that covers the input. -/
theorem phaseRuns_encode {c : State} {t : HTree} (rest : List Instr) (hs : c.sched = []) (hv : c.codesValid = true)
    (hct : c.ct = t.codeTable) (ht : t.Covers c.src.data) (ha : Answers c.src.replies) (hk : Answers c.bsnk.replies) :
    PhaseRuns .encode rest (2 * c.src.data.length + 2 + 1) c (inputEncoded (t.bodyOf c.src.data) c) := by
  have hcode : ∀ b, (beginPhase .encode rest c).codeOf b = t.codeOf b.toNat := fun b => by
    show c.ct[b.toNat] = _
    simp only [hct, t.getElem_codeTable]
  have heof : (beginPhase .encode rest c).eofCode = t.codeOf 256 := by
    show c.ct[256] = _
    simp only [hct, t.getElem_codeTable]
  have hrun := run_encodeStart (s := beginPhase .encode rest c) ⟨nofun, hs⟩ hv ha hk
    (fun b hb => by rw [hcode]; exact (HTree.codeOf_ne_nil_iff ht.two _).mpr (ht.bytes b hb))
    (by rw [heof]; exact (HTree.codeOf_ne_nil_iff ht.two _).mpr ht.sentinel)
  rw [funext hcode, heof] at hrun
  exact hrun

/-! ## COMPRESS -/

theorem HoldsTree.size_le {s : State} {t : HTree} (h : HoldsTree s t) : t.size ≤ 513 := by
  obtain ⟨ids, htree, -, hids, -⟩ := h.tree
  rw [← htree.length_ids, hids]
  exact h.capacity

theorem BuilderOnly.src {s t : State} (h : BuilderOnly s t) : t.src = s.src := (congrArg State.src h :)

theorem BuilderOnly.bsnk {s t : State} (h : BuilderOnly s t) : t.bsnk = s.bsnk := (congrArg State.bsnk h :)

theorem BuilderOnly.sched {s t : State} (h : BuilderOnly s t) : t.sched = s.sched := (congrArg State.sched h :)

theorem BuilderOnly.err {s t : State} (h : BuilderOnly s t) : t.err = s.err := (congrArg State.err h :)

/-- The phases of COMPRESS behind BUILD, from a state that holds a tree that covers the input (R182). -/
theorem run_gencodes_wrhdr_encode {c : State} {t : HTree} (hs : c.sched = []) (ht : HoldsTree c t)
    (hcov : t.Covers c.src.data) (ha : Answers c.src.replies) (hk : Answers c.bsnk.replies) :
    run (0 + 1 + (t.size + t.leaves + 1 + 1 + (2 * c.src.data.length + 2 + 1 + 1)))
        (beginPhase .gencodes [.wrhdr, .encode] c) =
      complete (inputEncoded (t.bodyOf c.src.data) (headerPut t (codesMade t c))) := by
  have hgencodes := phaseRuns_gencodes [.wrhdr, .encode] ht hcov.two
  have hwrhdr := phaseRuns_wrhdr (c := codesMade t c) [.encode] hs (ht.congr rfl) hk
  have hencode := phaseRuns_encode (c := headerPut t (codesMade t c)) [] hs rfl rfl hcov ha ((hk.drop 1).drop _)
  rw [hgencodes.run_next hs, hwrhdr.run_next hs]
  exact hencode.run_last hs

/-- COMPRESS of input that its counters hold: BUILD leaves `c` with a tree that covers the input, and the header and the body of
that tree are written (R182). -/
theorem exec_compress {s : State} (hr : Ready s) (ha : Answers s.src.replies) (hk : Answers s.bsnk.replies)
    (hp : s.src.pos = 0) (hw : s.params.wCount ≤ 32) (hc : ∀ b, s.src.data.count b < 2 ^ s.params.wCount) : ∃ tree c,
    BuilderOnly (inputCounted (accepted .compress s)) c ∧ HoldsTree c tree ∧ tree.Covers s.src.data ∧
      exec .compress s =
        .next (complete (inputEncoded (tree.bodyOf s.src.data) (headerPut tree (codesMade tree c)))) := by
  have hc32 : ∀ b, s.src.data.count b < 2 ^ 32 := fun b => (hc b).trans_le (Nat.pow_le_pow_right two_pos hw)
  obtain ⟨tree, htree, hcov⟩ := buildBody_covers (c := inputCounted (accepted .compress s)) rfl hc32
  have hcount := phaseRuns_count (c := accepted .compress s) [.build, .gencodes, .wrhdr, .encode] hr.2 ha hp hc
  have hbuild := phaseRuns_build (c := inputCounted (accepted .compress s)) [.gencodes, .wrhdr, .encode] rfl
  have hframe := builderOnly_buildBody (inputCounted (accepted .compress s))
  generalize buildBody (inputCounted (accepted .compress s)) = c at htree hbuild hframe
  have hsched : c.sched = [] := hframe.sched.trans hr.2
  have hdata : c.src.data = s.src.data := (congrArg Src.data hframe.src :)
  have hrest := run_gencodes_wrhdr_encode hsched htree (hdata ▸ hcov) (hframe.src ▸ ha.drop _) (hframe.bsnk ▸ hk)
  rw [hdata] at hrest
  have hsize := htree.size_le
  have hleaves := tree.size_add_one
  refine ⟨tree, c, hframe, htree, hcov, exec_of_run (i := .compress)
    (n := s.src.data.length + 1 + 1 + (0 + 1 +
      (0 + 1 + (tree.size + tree.leaves + 1 + 1 + (2 * s.src.data.length + 2 + 1 + 1)))))
    rfl hr (by unfold State.workBound; omega) ?_ rfl⟩
  exact (hcount.run_next hr.2 _).trans ((hbuild.run_next hr.2 _).trans hrest)

/-! ## DECOMPRESS -/

/-- `s` after RDHDR has read the header of `t` into the pool `pool` (R142, R143). -/
def treeParsed (t : HTree) (pool : Vector Node 513) (s : State) : State :=
  { tokensRead t.tokens pool (headerBegun s) with root := 0, treeValid := true, treeSrc := true }

theorem phaseRuns_rdhdr {c : State} {t : HTree} {rest : Bits} (todo : List Instr) (hs : c.sched = [])
    (ha : Answers c.bsrc.replies) (hr : c.bsrcRest = bitsN 32 0xFACE8201 ++ t.wire ++ rest) (hsize : t.size ≤ 513)
    (hcodes : ∀ d ∈ t.codes, d.1.toNat < 512) : ∃ pool,
    PhaseRuns .rdhdr todo (t.size + 1) c (treeParsed t pool c) ∧ HoldsTree (treeParsed t pool c) t := by
  obtain ⟨pool, hrun, hparsed⟩ := run_rdhdrStart_tree (s := beginPhase .rdhdr todo c) (t := t) ⟨nofun, hs⟩ ha hr hsize
  rw [t.nineBits_eq_self hcodes] at hparsed
  refine ⟨pool, hrun.trans (phaseDone_withWork .getMagic (beginPhase .rdhdr todo (treeParsed t pool c))), ?_⟩
  refine holdsTree_of_preorder rfl ?_ hsize ?_ ?_
  · rw [List.range_eq_range']
    exact hparsed.tree.congr fun i _ => nodeAt_congr rfl i
  · rw [← t.length_tokens]
    exact BitVec.zero_add _
  · rw [← t.leafTokens_tokens]
    exact BitVec.zero_add _

theorem phaseRuns_decode {c : State} {t : HTree} {syms : List (BitVec 10 × Bits)} {eof rest : Bits} (todo : List Instr)
    (h : Reading (beginPhase .decode todo c) (pathBits syms ++ eof ++ rest)) (ht : HoldsTree c t)
    (h2 : 2 ≤ t.leaves) (hk : Answers c.bysnk.replies) (hc : ∀ d ∈ syms, d ∈ t.codes ∧ d.1.toNat ≠ 256)
    (he : (256, eof) ∈ t.codes) :
    PhaseRuns .decode todo ((pathBits syms ++ eof).length + syms.length) c
      { decoded (lowBytes syms) (pathBits syms ++ eof).length c with eosSeen := true } := by
  obtain ⟨ids, htree, -⟩ := ht.tree
  exact run_decodeStart (s := beginPhase .decode todo c) (ht.congr rfl) (htree.root_internal_of_two h2) hk hc h he

theorem bsrcRest_treeParsed (t : HTree) (pool : Vector Node 513) (s : State) :
    (treeParsed t pool s).bsrcRest = s.bsrcRest.drop (bitsN 32 0xFACE8201 ++ t.wire).length := by
  show s.bsrc.bits.drop (s.bsrc.pos + 32 + (t.tokens.flatMap encode).length) = _
  rw [t.flatMap_encode_tokens, List.length_append, length_bitsN, State.bsrcRest, List.drop_drop, Nat.add_assoc]

/-- DECOMPRESS of a header and a body of its tree: RDHDR reads the tree and DECODE walks it (R183). -/
theorem exec_decompress {s : State} {t : HTree} {syms : List (BitVec 10 × Bits)} {eof rest : Bits} (hr : Ready s)
    (ha : Answers s.bsrc.replies) (hk : Answers s.bysnk.replies) (hsize : t.size ≤ 513) (h2 : 2 ≤ t.leaves)
    (hcodes : ∀ d ∈ t.codes, d.1.toNat < 512) (hc : ∀ d ∈ syms, d ∈ t.codes ∧ d.1.toNat ≠ 256) (he : (256, eof) ∈ t.codes)
    (hrest : s.bsrcRest = bitsN 32 0xFACE8201 ++ t.wire ++ (pathBits syms ++ eof ++ rest)) : ∃ pool,
    exec .decompress s = .next (complete
      { decoded (lowBytes syms) (pathBits syms ++ eof).length
          (treeParsed t pool (accepted .decompress s)) with eosSeen := true }) := by
  obtain ⟨pool, hrdhdr, htree⟩ := phaseRuns_rdhdr (c := accepted .decompress s) [.decode] hr.2 ha hrest hsize hcodes
  have hread : Reading (beginPhase .decode [] (treeParsed t pool (accepted .decompress s)))
      (pathBits syms ++ eof ++ rest) := by
    refine ⟨⟨nofun, hr.2⟩, ha.tail.drop _, (bsrcRest_treeParsed t pool (accepted .decompress s)).trans ?_⟩
    show s.bsrcRest.drop _ = _
    rw [hrest, List.drop_left]
  have hdecode := phaseRuns_decode [] hread htree h2 hk hc he
  have hbound := decode_lt_workBound (s := s) (q := eof) h2 (fun d hd => (hc d hd).1)
    (by simp only [hrest, List.length_append]; omega)
  refine ⟨pool, exec_of_run (i := .decompress)
    (n := t.size + 1 + 1 + ((pathBits syms ++ eof).length + syms.length + 1)) rfl hr (by omega) ?_ rfl⟩
  show run _ (beginPhase .rdhdr [.decode] (accepted .decompress s)) = _
  rw [hrdhdr.run_next hr.2, hdecode.run_last hr.2]

/-! ## The round trip -/

/-- The code of a value that has a leaf is the path of a leaf of that value. -/
theorem HTree.codeOf_mem {t : HTree} {v : BitVec 10} (h : v.toNat ∈ t.codes.map fun c => c.1.toNat) :
    (v, t.codeOf v.toNat) ∈ t.codes := by
  rcases t.codeOf_cases v.toNat with ⟨c, hc, hv, he⟩ | ⟨hno, -⟩
  · rw [he, ← BitVec.eq_of_toNat_eq hv]
    exact hc
  · obtain ⟨c, hc, hv⟩ := List.mem_map.mp h
    exact absurd hv (hno c hc)

/-- The leaf of a byte and its code. -/
def HTree.symbolOf (t : HTree) (b : Byte) : BitVec 10 × Bits := (b.setWidth 10, t.codeOf b.toNat)

theorem HTree.symbolOf_mem {t : HTree} {b : Byte} (h : b.toNat ∈ t.codes.map fun c => c.1.toNat) :
    t.symbolOf b ∈ t.codes ∧ (t.symbolOf b).1.toNat ≠ 256 := by
  have hb : (b.setWidth 10).toNat = b.toNat := BitVec.toNat_setWidth_of_le (by decide)
  refine ⟨?_, ?_⟩
  · have hmem := HTree.codeOf_mem (t := t) (v := b.setWidth 10) (by rwa [hb])
    rwa [hb] at hmem
  · show (b.setWidth 10).toNat ≠ 256
    rw [hb]
    exact b.isLt.ne

/-- The body of some bytes is their leaves' paths and the sentinel's. -/
theorem HTree.bodyOf_eq (t : HTree) (bs : List Byte) :
    t.bodyOf bs = pathBits (bs.map t.symbolOf) ++ t.codeOf 256 := by
  rw [pathBits, List.map_map]
  rfl

/-- The low 8 bits of a byte's leaf are the byte. -/
theorem lowBytes_symbolOf (t : HTree) (bs : List Byte) : lowBytes (bs.map t.symbolOf) = bs := by
  rw [lowBytes, List.map_map]
  exact List.map_id'' (fun b => (BitVec.setWidth_setWidth_of_le b (by decide)).trans (BitVec.setWidth_eq b)) bs

/-- DECOMPRESS of a header and the body of some bytes under the codes of its tree. -/
theorem exec_decompress_bodyOf {s : State} {t : HTree} {bs : List Byte} {rest : Bits} (hr : Ready s)
    (ha : Answers s.bsrc.replies) (hk : Answers s.bysnk.replies) (hsize : t.size ≤ 513) (ht : t.Covers bs)
    (hrest : s.bsrcRest = bitsN 32 0xFACE8201 ++ t.wire ++ (t.bodyOf bs ++ rest)) : ∃ pool,
    exec .decompress s = .next (complete
      { decoded bs (t.bodyOf bs).length (treeParsed t pool (accepted .decompress s)) with eosSeen := true }) := by
  have hsyms : ∀ d ∈ bs.map t.symbolOf, d ∈ t.codes ∧ d.1.toNat ≠ 256 := by
    rw [List.forall_mem_map]
    exact fun b hb => HTree.symbolOf_mem (ht.bytes b hb)
  rw [HTree.bodyOf_eq] at hrest ⊢
  have hrun := exec_decompress hr ha hk hsize ht.two ht.nineBits hsyms (HTree.codeOf_mem (v := 256) ht.sentinel) hrest
  rwa [lowBytes_symbolOf] at hrun

/-- Settles O49: COMPRESS writes the header and the body of a tree that covers the input (`exec_compress`), and DECOMPRESS reads them
back (`exec_decompress_bodyOf`). -/
theorem roundTrip : Obligations.RoundTrip := by
  intro s hs hsrc hsnk hp hw hc
  obtain ⟨tree, c, hframe, htree, hcov, hcompress⟩ := exec_compress hs hsrc hsnk hp hw hc
  refine ⟨_, bitsN 32 0xFACE8201 ++ tree.wire ++ tree.bodyOf s.src.data, hcompress, hframe.err, ?_,
    fun r rest hr ha hk hrest => ?_⟩
  · show c.bsnk.bits ++ bitsN 32 0xFACE8201 ++ tree.wire ++ tree.bodyOf s.src.data = _
    rw [hframe.bsnk, List.append_assoc, List.append_assoc, ← List.append_assoc (bitsN 32 0xFACE8201)]
    rfl
  · rw [List.append_assoc] at hrest
    obtain ⟨pool, hdecompress⟩ := exec_decompress_bodyOf hr ha hk htree.size_le hcov hrest
    refine ⟨_, hdecompress, rfl, rfl, rfl, rfl, rfl, ?_, ?_, BitVec.zero_add _⟩
    · refine (bsrcRest_advance (treeParsed tree pool _) _ _).trans ?_
      rw [bsrcRest_treeParsed]
      show (r.bsrcRest.drop _).drop _ = _
      rw [hrest, List.drop_left, List.drop_left]
    · show (0 : BitVec 64) + BitVec.ofNat 64 32 + BitVec.ofNat 64 (tree.tokens.flatMap encode).length +
        BitVec.ofNat 64 (tree.bodyOf s.src.data).length = _
      rw [tree.flatMap_encode_tokens, zero_add, ← BitVec.ofNat_add, ← BitVec.ofNat_add, List.length_append,
        List.length_append, length_bitsN]

end Sys2Proof.Machine

/-! # COMPRESS and DECOMPRESS as the commands of their phases

A phase's run is that of its body as a command, but for LAST_OPC, the phases to come and the counters, which count on (`asPhase`).
This is said of every piece of work (`Alike`) and then of runs (`PhaseEnds`). A command ends or waits within so few pieces of work
(`PiecesLeft`) that all phases together fit into one command's bound; so the results of the phases' commands are the composite command's
(R182, R183). -/

namespace Sys2Proof.Machine

/-! ## A command's run beside a phase's -/

/-- `s`, a state of a command's run, as a state of the same body run as the phase before `rest` of a composite command, to which the
phases before it left `b`: LAST_OPC stays, and the counters count on. -/
def asPhase (b : State) (rest : List Instr) (s : State) : State :=
  { s with
    todo := rest, lastOpc := b.lastOpc, symIn := b.symIn + s.symIn, bitsOut := b.bitsOut + s.bitsOut
    bitsIn := b.bitsIn + s.bitsIn, bytesOut := b.bytesOut + s.bytesOut, hdrBits := b.hdrBits + s.hdrBits }

/-- The sequencer and STATUS, but for LAST_OPC and the flags of the tables, and the list of turns. -/
def State.sequencerPart (s : State) : Phase × List Instr × Bool × Bool × ErrCode × ErrInfo × List Agent :=
  (s.phase, s.todo, s.done, s.err, s.errCode, s.errInfo, s.sched)

/-- The counters and EOS_SEEN, with a 0 for each that the body of `i` writes (R32, R45). -/
def State.uncounted (s : State) (i : Option Instr) :
    BitVec 32 × BitVec 64 × BitVec 64 × BitVec 32 × BitVec 32 × Bool :=
  match i with
  | some .count => (0, s.bitsOut, s.bitsIn, s.bytesOut, s.hdrBits, s.eosSeen)
  | some .wrhdr => (s.symIn, 0, s.bitsIn, s.bytesOut, 0, s.eosSeen)
  | some .encode => (0, 0, s.bitsIn, s.bytesOut, s.hdrBits, s.eosSeen)
  | some .rdhdr => (s.symIn, s.bitsOut, 0, s.bytesOut, 0, s.eosSeen)
  | some .decode => (s.symIn, s.bitsOut, 0, 0, s.hdrBits, false)
  | _ => (s.symIn, s.bitsOut, s.bitsIn, s.bytesOut, s.hdrBits, s.eosSeen)

/-- From `s` to `u` the engine has stayed in its body, and changed neither the sequencer nor STATUS, and of the counters only those
that the body counts in. -/
structure Steady (s u : State) : Prop where
  sequencer : u.sequencerPart = s.sequencerPart
  body      : u.work.body = s.work.body
  counters  : u.uncounted s.work.body = s.uncounted s.work.body

/-- A body's piece of work in a command's run, which takes `s` to the second state, beside the same piece in a phase's run: the body
goes on, is done, or has failed in both. -/
inductive Alike (b : State) (rest : List Instr) (s : State) : State → State → Prop where
  | goesOn (u : State) : Steady s u → Alike b rest s u (asPhase b rest u)
  | done (u : State) : Steady s u → Alike b rest s (phaseDone u) (phaseDone (asPhase b rest u))
  | failed (e : ErrCode) (q : PortId) (u : State) : Steady s u →
      Alike b rest s (raise e q u) (raise e q (asPhase b rest u))

/-- A port procedure in a command's run beside the same in a phase's run. -/
inductive PortedAlike (b : State) (rest : List Instr) (s : State) {α : Type} : Ported α → Ported α → Prop where
  | go (v : α) (u : State) : Steady s u → PortedAlike b rest s (.go v u) (.go v (asPhase b rest u))
  | failed (e : ErrCode) (q : PortId) (u : State) : Steady s u →
      PortedAlike b rest s (.stop (raise e q u)) (.stop (raise e q (asPhase b rest u)))
  | wait (u : State) : Steady s u → PortedAlike b rest s (.stop u) (.stop (asPhase b rest u))

theorem Steady.refl (s : State) : Steady s s := ⟨rfl, rfl, rfl⟩

section

variable {b : State} {rest : List Instr} {s u v w : State}

theorem Steady.trans (h : Steady s u) (g : Steady u v) : Steady s v :=
  ⟨g.sequencer.trans h.sequencer, g.body.trans h.body, (h.body ▸ g.counters).trans h.counters⟩

theorem Steady.setWork (h : Steady s u) {k : Work} (hk : k.body = s.work.body) : Steady s { u with work := k } :=
  ⟨h.sequencer, hk, h.counters⟩

theorem Alike.after (h : Steady s u) (g : Alike b rest u v w) : Alike b rest s v w := by
  cases g with
  | goesOn v hv => exact .goesOn v (h.trans hv)
  | done v hv => exact .done v (h.trans hv)
  | failed e q v hv => exact .failed e q v (h.trans hv)

theorem Alike.goesOn_of_eq (h : Steady s u) (hw : w = asPhase b rest u) : Alike b rest s u w :=
  hw ▸ .goesOn u h

theorem PortedAlike.go_of_eq {α : Type} (v : α) (h : Steady s u) (hw : w = asPhase b rest u) :
    PortedAlike b rest s (.go v u) (.go v w) :=
  hw ▸ .go v u h

theorem PortedAlike.failed_of_eq {α : Type} (e : ErrCode) (q : PortId) (h : Steady s u) (hw : w = asPhase b rest u) :
    PortedAlike b rest s (.stop (raise e q u) : Ported α) (.stop (raise e q w)) :=
  hw ▸ .failed e q u h

/-! ## Counting -/

theorem asPhase_symIn (n : BitVec 32) : asPhase b rest { s with symIn := s.symIn + n } =
    { asPhase b rest s with symIn := (asPhase b rest s).symIn + n } := by
  simp only [asPhase, BitVec.add_assoc]

theorem asPhase_bitsOut (n : BitVec 64) : asPhase b rest { s with bitsOut := s.bitsOut + n } =
    { asPhase b rest s with bitsOut := (asPhase b rest s).bitsOut + n } := by
  simp only [asPhase, BitVec.add_assoc]

theorem asPhase_bitsIn (n : BitVec 64) : asPhase b rest { s with bitsIn := s.bitsIn + n } =
    { asPhase b rest s with bitsIn := (asPhase b rest s).bitsIn + n } := by
  simp only [asPhase, BitVec.add_assoc]

theorem asPhase_hdrBits (n : BitVec 32) : asPhase b rest { s with hdrBits := s.hdrBits + n } =
    { asPhase b rest s with hdrBits := (asPhase b rest s).hdrBits + n } := by
  simp only [asPhase, BitVec.add_assoc]

@[simp] theorem nodeAt_asPhase : (asPhase b rest s).nodeAt = s.nodeAt := funext (nodeAt_congr rfl)

/-! ## Transactions -/

@[simp] theorem asPhase_src : (asPhase b rest s).src = s.src := rfl

@[simp] theorem asPhase_bsnk : (asPhase b rest s).bsnk = s.bsnk := rfl

@[simp] theorem asPhase_bsrc : (asPhase b rest s).bsrc = s.bsrc := rfl

@[simp] theorem asPhase_bysnk : (asPhase b rest s).bysnk = s.bysnk := rfl

@[simp] theorem asPhase_bsrcRest : (asPhase b rest s).bsrcRest = s.bsrcRest := rfl

theorem srcRead_asPhase (b : State) (rest : List Instr) (s : State) :
    srcRead (asPhase b rest s) = Prod.map id (asPhase b rest) (srcRead s) := by
  unfold srcRead
  rw [asPhase_src]
  cases nextReply s.src.replies with
  | answer => cases s.src.data[s.src.pos]? <;> rfl
  | ioerr => rfl
  | silent => rfl

theorem srcRewind_asPhase (b : State) (rest : List Instr) (s : State) :
    srcRewind (asPhase b rest s) = Prod.map id (asPhase b rest) (srcRewind s) := by
  unfold srcRewind
  rw [asPhase_src]
  cases nextReply s.src.replies <;> rfl

theorem sinkWrite_asPhase (c : Bits) (b : State) (rest : List Instr) (s : State) :
    sinkWrite c (asPhase b rest s) = Prod.map id (asPhase b rest) (sinkWrite c s) := by
  unfold sinkWrite
  rw [asPhase_bsnk]
  cases nextReply s.bsnk.replies <;> rfl

theorem bitRead_asPhase (n : Nat) (b : State) (rest : List Instr) (s : State) :
    bitRead n (asPhase b rest s) = Prod.map id (asPhase b rest) (bitRead n s) := by
  unfold bitRead
  rw [asPhase_bsrc, asPhase_bsrcRest]
  cases nextReply s.bsrc.replies with
  | answer => by_cases hn : n ≤ s.bsrcRest.length <;> simp only [hn] <;> rfl
  | ioerr => rfl
  | silent => rfl

theorem byteWrite_asPhase (v : Byte) (b : State) (rest : List Instr) (s : State) :
    byteWrite v (asPhase b rest s) = Prod.map id (asPhase b rest) (byteWrite v s) := by
  unfold byteWrite
  rw [asPhase_bysnk]
  cases nextReply s.bysnk.replies <;> rfl

theorem put_alike (c : Bits) (b : State) (rest : List Instr) (hw : s.work.body = some .wrhdr) :
    PortedAlike b rest s (put c s) (put c (asPhase b rest s)) := by
  unfold put
  rw [sinkWrite_asPhase]
  obtain ⟨r, k, rs, d, h⟩ := sinkWrite_frame c s
  rw [h]
  cases r with
  | ok => exact .go_of_eq () ⟨rfl, rfl, by rw [hw]; rfl⟩ (asPhase_bitsOut _).symm
  | ioerr => exact .failed _ _ _ ⟨rfl, rfl, rfl⟩
  | silent => exact .wait _ ⟨rfl, rfl, rfl⟩

theorem emit_alike (c : Bits) (b : State) (rest : List Instr) (hw : s.work.body = some .encode) :
    PortedAlike b rest s (emit c s) (emit c (asPhase b rest s)) := by
  unfold emit
  rw [asPhase_bsnk]
  cases nextReply s.bsnk.replies with
  | answer =>
    refine .go_of_eq () ⟨rfl, rfl, by rw [hw]; rfl⟩ ?_
    simp only [asPhase, BitVec.add_assoc]
  | ioerr =>
    refine .failed_of_eq .upstreamIo .bsnk ⟨rfl, rfl, by rw [hw]; rfl⟩ ?_
    simp only [asPhase, BitVec.add_assoc]
    rfl
  | silent => exact .wait _ (.refl s)

theorem get_alike (n : Nat) (e : ErrCode) (b : State) (rest : List Instr)
    (hw : s.work.body = some .rdhdr ∨ s.work.body = some .decode) :
    PortedAlike b rest s (get n e s) (get n e (asPhase b rest s)) := by
  unfold get
  rw [bitRead_asPhase]
  obtain ⟨r, pos, rs, d, h⟩ := bitRead_frame n s
  rw [h]
  cases r with
  | data v =>
    refine .go_of_eq v ⟨rfl, rfl, ?_⟩ (asPhase_bitsIn _).symm
    rcases hw with hw | hw <;> rw [hw] <;> rfl
  | eos => exact .failed _ _ _ ⟨rfl, rfl, rfl⟩
  | ioerr => exact .failed _ _ _ ⟨rfl, rfl, rfl⟩
  | silent => exact .wait _ ⟨rfl, rfl, rfl⟩

theorem Steady.hdrBits (h : Steady s u) (n : BitVec 32)
    (hw : s.work.body = some .rdhdr ∨ s.work.body = some .wrhdr) : Steady s { u with hdrBits := u.hdrBits + n } := by
  refine h.trans ⟨rfl, rfl, ?_⟩
  rw [h.body]
  rcases hw with hw | hw <;> rw [hw] <;> rfl

theorem getFlag_alike (b : State) (rest : List Instr) (hw : s.work.body = some .rdhdr) :
    PortedAlike b rest s (getFlag s) (getFlag (asPhase b rest s)) := by
  have h := get_alike 1 .truncatedHeader b rest (.inl hw)
  unfold getFlag
  generalize get 1 .truncatedHeader s = x, get 1 .truncatedHeader (asPhase b rest s) = y at h ⊢
  cases h with
  | go v u hu =>
    have hc := hu.hdrBits 1 (.inl hw)
    simp only [← asPhase_hdrBits]
    by_cases hcap : Config.nodeCap ≤ u.nodeCount.toNat
    · rw [if_pos hcap, if_pos (by exact hcap)]
      exact .failed _ _ _ hc
    · rw [if_neg hcap, if_neg (by exact hcap)]
      exact .go () _ hc
  | failed e q u hu => exact .failed e q u hu
  | wait u hu => exact .wait u hu

/-! ## Pieces of work -/

theorem countTick_alike (b : State) (rest : List Instr) (hw : s.work = .countRead) :
    Alike b rest s (countTick s) (countTick (asPhase b rest s)) := by
  unfold countTick
  rw [srcRead_asPhase]
  obtain ⟨r, pos, rs, d, h⟩ := srcRead_frame s
  rw [h]
  generalize hu : ({ s with src := ⟨s.src.data, pos, rs⟩, draws := d } : State) = u
  have hs : Steady s u := by
    subst hu
    exact ⟨rfl, rfl, rfl⟩
  have hsym : Steady s { u with symIn := u.symIn + 1 } := hs.trans ⟨rfl, rfl, by rw [hs.body, hw]; rfl⟩
  cases r with
  | data x =>
    simp only [Prod.map, id, countByte, ← asPhase_symIn]
    by_cases hc : (State.freqOf { u with symIn := u.symIn + 1 } x).toNat = State.countMax { u with symIn := u.symIn + 1 }
    · rw [if_pos hc, if_pos (by exact hc)]
      exact .failed _ _ _ hsym
    · rw [if_neg hc, if_neg (by exact hc)]
      exact .goesOn _ ⟨hsym.sequencer, hsym.body, hsym.counters⟩
  | eos => exact .done _ ⟨hs.sequencer, hs.body, hs.counters⟩
  | ioerr => exact .failed _ _ _ hs
  | silent => exact .goesOn _ hs

theorem serNext_alike (b : State) (rest : List Instr) (st : List NodeIdx) (hw : s.work.body = some .wrhdr)
    (h : Steady s u) : Alike b rest s (serNext st u) (serNext st (asPhase b rest u)) := by
  cases st with
  | nil => exact .done u h
  | cons i st => exact .goesOn _ (h.setWork hw.symm)

theorem putMagicTick_alike (b : State) (rest : List Instr) (hw : s.work = .putMagic) :
    Alike b rest s (putMagicTick s) (putMagicTick (asPhase b rest s)) := by
  have h := put_alike (bitsN 32 Config.magicTree.toNat) b rest (s := s) (by rw [hw]; rfl)
  unfold putMagicTick
  generalize put _ s = x, put _ (asPhase b rest s) = y at h ⊢
  cases h with
  | go v u hu => exact .goesOn _ (hu.setWork (by rw [hw]; rfl))
  | failed e q u hu => exact .failed e q u hu
  | wait u hu => exact .goesOn u hu

theorem putFlagTick_alike (b : State) (rest : List Instr) {st : List NodeIdx} (hw : s.work = .putFlag st) :
    Alike b rest s (putFlagTick st s) (putFlagTick st (asPhase b rest s)) := by
  have hb : s.work.body = some .wrhdr := by rw [hw]; rfl
  cases st with
  | nil => exact .done s (.refl s)
  | cons i st =>
    have h := put_alike [(s.nodeAt i).isLeaf] b rest hb
    simp only [putFlagTick, nodeAt_asPhase]
    generalize put _ s = x, put _ (asPhase b rest s) = y at h ⊢
    cases h with
    | go v u hu =>
      have hc := hu.hdrBits 1 (.inr hb)
      by_cases hl : (s.nodeAt i).isLeaf = true
      · simp only [if_pos hl]
        exact .goesOn_of_eq (hc.setWork hb.symm) (by simp only [asPhase, BitVec.add_assoc])
      · simp only [if_neg hl, ← asPhase_hdrBits]
        exact serNext_alike b rest _ hb hc
    | failed e q u hu => exact .failed e q u hu
    | wait u hu => exact .goesOn u hu

theorem putValueTick_alike (b : State) (rest : List Instr) {st : List NodeIdx} (hw : s.work = .putValue st) :
    Alike b rest s (putValueTick st s) (putValueTick st (asPhase b rest s)) := by
  have hb : s.work.body = some .wrhdr := by rw [hw]; rfl
  cases st with
  | nil => exact .done s (.refl s)
  | cons i st =>
    have h := put_alike (bitsN 9 (s.nodeAt i).value.toNat) b rest hb
    simp only [putValueTick, nodeAt_asPhase]
    generalize put _ s = x, put _ (asPhase b rest s) = y at h ⊢
    cases h with
    | go v u hu =>
      simp only [← asPhase_hdrBits]
      exact serNext_alike b rest _ hb (hu.hdrBits 9 (.inr hb))
    | failed e q u hu => exact .failed e q u hu
    | wait u hu => exact .goesOn u hu

theorem getMagicTick_alike (b : State) (rest : List Instr) (hw : s.work = .getMagic) :
    Alike b rest s (getMagicTick s) (getMagicTick (asPhase b rest s)) := by
  have h := get_alike 32 .formatMismatch b rest (s := s) (.inl (by rw [hw]; rfl))
  unfold getMagicTick
  generalize get _ _ s = x, get _ _ (asPhase b rest s) = y at h ⊢
  cases h with
  | go m u hu =>
    by_cases hm : m = Config.magicTree.toNat
    · simp only [if_pos hm]
      exact .goesOn _ (hu.setWork (by rw [hw]; rfl))
    · simp only [if_neg hm]
      exact .failed _ _ u hu
  | failed e q u hu => exact .failed e q u hu
  | wait u hu => exact .goesOn u hu

theorem closeSubtree_alike (b : State) (rest : List Instr) (r : NodeIdx) (st : List Frame)
    (hw : s.work.body = some .rdhdr) (h : Steady s u) :
    Alike b rest s (closeSubtree r st u) (closeSubtree r st (asPhase b rest u)) := by
  induction st generalizing r u with
  | nil => exact .done _ ⟨h.sequencer, h.body, h.counters⟩
  | cons f st ih =>
    obtain ⟨i, _ | l⟩ := f
    · exact .goesOn _ (h.setWork hw.symm)
    · exact ih i ⟨h.sequencer, h.body, h.counters⟩

theorem internalToken_alike (b : State) (rest : List Instr) {st : List Frame} (hw : s.work = .getToken st) :
    Alike b rest s (internalToken st s) (internalToken st (asPhase b rest s)) := by
  have hb : s.work.body = some .rdhdr := by rw [hw]; rfl
  have h := getFlag_alike b rest hb
  unfold internalToken
  generalize getFlag s = x, getFlag (asPhase b rest s) = y at h ⊢
  cases h with
  | go v u hu => exact .goesOn (internalAllocated st u) ⟨hu.sequencer, hb.symm, hu.counters⟩
  | failed e q u hu => exact .failed e q u hu
  | wait u hu => exact .goesOn u hu

theorem leafValue_alike (b : State) (rest : List Instr) (v : Nat) {i : NodeIdx} {st : List Frame}
    (hw : s.work = .getValue i st) :
    Alike b rest s (leafValue v i st s) (leafValue v i st (asPhase b rest s)) := by
  have hb : s.work.body = some .rdhdr := by rw [hw]; rfl
  have h := get_alike 9 .truncatedHeader b rest (.inl hb)
  unfold leafValue
  generalize get _ _ s = x, get _ _ (asPhase b rest s) = y at h ⊢
  cases h with
  | go _ u hu =>
    have hc := hu.hdrBits 9 (.inl hb)
    have hrun := closeSubtree_alike b rest i st hb
      (u := leafFilled v i { u with hdrBits := u.hdrBits + 9 }) ⟨hc.sequencer, hc.body, hc.counters⟩
    have hfill : asPhase b rest (leafFilled v i { u with hdrBits := u.hdrBits + 9 }) =
        leafFilled v i { asPhase b rest u with hdrBits := (asPhase b rest u).hdrBits + 9 } := by
      rw [← asPhase_hdrBits]
      rfl
    rw [hfill] at hrun
    exact hrun
  | failed e q u hu => exact .failed e q u hu
  | wait u hu => exact .goesOn u hu

theorem leafToken_alike (b : State) (rest : List Instr) (v : Nat) {st : List Frame} (hw : s.work = .getToken st) :
    Alike b rest s (leafToken v st s) (leafToken v st (asPhase b rest s)) := by
  have hb : s.work.body = some .rdhdr := by rw [hw]; rfl
  have h := getFlag_alike b rest hb
  unfold leafToken
  generalize getFlag s = x, getFlag (asPhase b rest s) = y at h ⊢
  cases h with
  | go _ u hu =>
    have hu' : Steady s (leafAllocated st u) := ⟨hu.sequencer, hb.symm, hu.counters⟩
    exact (leafValue_alike b rest v (s := leafAllocated st u) rfl).after hu'
  | failed e q u hu => exact .failed e q u hu
  | wait u hu => exact .goesOn u hu

theorem getTokenTick_alike (b : State) (rest : List Instr) {st : List Frame} (hw : s.work = .getToken st) :
    Alike b rest s (getTokenTick st s) (getTokenTick st (asPhase b rest s)) := by
  unfold getTokenTick
  rw [asPhase_bsrcRest]
  split
  · exact leafToken_alike b rest _ hw
  · exact internalToken_alike b rest hw

theorem rewindTick_alike (b : State) (rest : List Instr) (hw : s.work = .rewind) :
    Alike b rest s (rewindTick s) (rewindTick (asPhase b rest s)) := by
  unfold rewindTick
  rw [srcRewind_asPhase]
  obtain ⟨r, pos, rs, d, h⟩ := srcRewind_frame s
  rw [h]
  cases r with
  | ok => exact .goesOn _ ⟨rfl, by rw [hw]; rfl, rfl⟩
  | ioerr => exact .failed _ _ _ ⟨rfl, rfl, rfl⟩
  | silent => exact .goesOn _ ⟨rfl, rfl, rfl⟩

theorem emitCode_alike (b : State) (rest : List Instr) (c : Bits) (last : Bool) (hw : s.work.body = some .encode)
    (h : Steady s u) : Alike b rest s (emitCode c last u) (emitCode c last (asPhase b rest u)) := by
  unfold emitCode
  cases c.isEmpty with
  | true => exact .failed _ _ u h
  | false => exact .goesOn _ (h.setWork hw.symm)

theorem encodeReadTick_alike (b : State) (rest : List Instr) (hw : s.work = .encodeRead) :
    Alike b rest s (encodeReadTick s) (encodeReadTick (asPhase b rest s)) := by
  have hb : s.work.body = some .encode := by rw [hw]; rfl
  unfold encodeReadTick
  rw [srcRead_asPhase]
  obtain ⟨r, pos, rs, d, h⟩ := srcRead_frame s
  rw [h]
  cases r with
  | data x =>
    simp only [Prod.map, id, ← asPhase_symIn]
    exact emitCode_alike b rest _ false hb ⟨rfl, rfl, by rw [hb]; rfl⟩
  | eos => exact emitCode_alike b rest _ true hb ⟨rfl, rfl, rfl⟩
  | ioerr => exact .failed _ _ _ ⟨rfl, rfl, rfl⟩
  | silent => exact .goesOn _ ⟨rfl, rfl, rfl⟩

theorem emitTick_alike (b : State) (rest : List Instr) {c : Bits} {last : Bool} (hw : s.work = .emit c last) :
    Alike b rest s (emitTick c last s) (emitTick c last (asPhase b rest s)) := by
  have hb : s.work.body = some .encode := by rw [hw]; rfl
  have h := emit_alike c b rest hb
  unfold emitTick
  generalize emit c s = x, emit c (asPhase b rest s) = y at h ⊢
  cases h with
  | go v u hu =>
    cases last with
    | true => exact .done u hu
    | false => exact .goesOn _ (hu.setWork hb.symm)
  | failed e q u hu => exact .failed e q u hu
  | wait u hu => exact .goesOn u hu

theorem arrive_alike (b : State) (rest : List Instr) (p : NodeIdx) (hw : s.work.body = some .decode)
    (h : Steady s u) : Alike b rest s (arrive p u) (arrive p (asPhase b rest u)) := by
  have hn := congrFun (nodeAt_asPhase (b := b) (rest := rest) (s := u)) p
  cases hl : (u.nodeAt p).isLeaf with
  | false =>
    rw [arrive_internal hl, arrive_internal (s := asPhase b rest u) (by rw [hn, hl])]
    exact .goesOn _ (h.setWork hw.symm)
  | true =>
    by_cases hv : (u.nodeAt p).value.toNat = 256
    · rw [arrive_sentinel hl hv, arrive_sentinel (s := asPhase b rest u) (by rw [hn, hl]) (by rw [hn, hv])]
      exact .done { u with eosSeen := true } (h.trans ⟨rfl, rfl, by rw [h.body, hw]; rfl⟩)
    · rw [arrive_byte hl hv, arrive_byte (s := asPhase b rest u) (by rw [hn, hl]) (by rwa [hn]), hn]
      exact .goesOn _ (h.setWork hw.symm)

theorem decodeBitTick_alike (b : State) (rest : List Instr) {p : NodeIdx} (hw : s.work = .decodeBit p) :
    Alike b rest s (decodeBitTick p s) (decodeBitTick p (asPhase b rest s)) := by
  have hb : s.work.body = some .decode := by rw [hw]; rfl
  have h := get_alike 1 .truncatedBody b rest (.inr hb)
  unfold decodeBitTick
  generalize get _ _ s = x, get _ _ (asPhase b rest s) = y at h ⊢
  cases h with
  | go r u hu => exact arrive_alike b rest (u.descend p r) hb hu
  | failed e q u hu => exact .failed e q u hu
  | wait u hu => exact .goesOn u hu

theorem decodeByteTick_alike (b : State) (rest : List Instr) {v : Byte} (hw : s.work = .decodeByte v) :
    Alike b rest s (decodeByteTick v s) (decodeByteTick v (asPhase b rest s)) := by
  unfold decodeByteTick
  rw [byteWrite_asPhase]
  obtain ⟨r, k, rs, d, h⟩ := byteWrite_frame v s
  rw [h]
  cases r with
  | ok => exact .goesOn_of_eq ⟨rfl, by rw [hw]; rfl, by rw [hw]; rfl⟩ (by simp only [Prod.map, id, asPhase, BitVec.add_assoc])
  | ioerr => exact .failed _ _ _ ⟨rfl, rfl, rfl⟩
  | silent => exact .goesOn _ ⟨rfl, rfl, rfl⟩

theorem steady_of_builderOnly (h : BuilderOnly s u) : Steady s u := by
  rw [h]
  exact ⟨rfl, rfl, rfl⟩

theorem asPhase_builder (h : BuilderOnly s u) : asPhase b rest u = (asPhase b rest s).withBuilderOf u := by
  rw [h]
  rfl

theorem alike_ite {x : State} (c : Bool) (h : Alike b rest s u v) (g : Alike b rest s w x) :
    Alike b rest s (if c then u else w) (if c then v else x) := by
  cases c with
  | true => exact h
  | false => exact g

/-- A body that starts: those of the composite commands only begin their first phase. -/
theorem startBody_alike (b : State) (rest : List Instr) {i : Instr} (hw : s.work = .start i) (hc : i ≠ .compress)
    (hd : i ≠ .decompress) : Alike b rest s (startBody i s) (startBody i (asPhase b rest s)) := by
  cases i with
  | nop => exact .done s (.refl s)
  | clear => exact .done _ ⟨rfl, rfl, rfl⟩
  | count => exact .goesOn _ ⟨rfl, by rw [hw]; rfl, rfl⟩
  | buildInit =>
    have hbody : buildInitBody (asPhase b rest s) = asPhase b rest (buildInitBody s) := by
      rw [buildInitBody_eq, buildInitBody_eq]
      rfl
    show Alike b rest s _ (if s.freqValid then phaseDone (buildInitBody (asPhase b rest s)) else _)
    rw [hbody]
    exact alike_ite _ (.done _ (steady_of_builderOnly (builderOnly_buildInitBody s))) (.failed _ _ s (.refl s))
  | buildMerge =>
    have hbody : buildMergeBody (asPhase b rest s) = asPhase b rest (buildMergeBody s) :=
      (buildMergeBody_withBuilderOf (asPhase b rest s) s).trans (asPhase_builder (builderOnly_buildMergeBody s)).symm
    show Alike b rest s _ (if s.pqActive then phaseDone (buildMergeBody (asPhase b rest s)) else _)
    rw [hbody]
    exact alike_ite _ (.done _ (steady_of_builderOnly (builderOnly_buildMergeBody s))) (.failed _ _ s (.refl s))
  | build =>
    have hbody : buildBody (asPhase b rest s) = asPhase b rest (buildBody s) :=
      (buildBody_congr (s := s) (t := asPhase b rest s) rfl rfl).trans (asPhase_builder (builderOnly_buildBody s)).symm
    show Alike b rest s _ (if s.freqValid then phaseDone (buildBody (asPhase b rest s)) else _)
    rw [hbody]
    exact alike_ite _ (.done _ (steady_of_builderOnly (builderOnly_buildBody s))) (.failed _ _ s (.refl s))
  | gencodes =>
    exact alike_ite _ (.failed _ _ s (.refl s)) (alike_ite _ (.failed _ _ s (.refl s)) (.done _ ⟨rfl, rfl, rfl⟩))
  | wrhdr => exact alike_ite _ (.goesOn _ ⟨rfl, by rw [hw]; rfl, rfl⟩) (.failed _ _ s (.refl s))
  | encode => exact alike_ite _ (.goesOn _ ⟨rfl, by rw [hw]; rfl, rfl⟩) (.failed _ _ s (.refl s))
  | rdhdr => exact .goesOn _ ⟨rfl, by rw [hw]; rfl, rfl⟩
  | decode =>
    exact alike_ite _ (.failed _ _ s (.refl s))
      (alike_ite _ (.failed _ _ s (.refl s)) (.goesOn _ ⟨rfl, by rw [hw]; rfl, rfl⟩))
  | compress => exact absurd rfl hc
  | decompress => exact absurd rfl hd
  | magic => exact .goesOn s (.refl s)
  | internal => exact .goesOn s (.refl s)
  | leaf v => exact .goesOn s (.refl s)

/-- A piece of work inside the body of any command but the composite ones. -/
theorem tick_alike (b : State) (rest : List Instr) (hc : s.work.body ≠ some .compress)
    (hd : s.work.body ≠ some .decompress) : Alike b rest s (tick s) (tick (asPhase b rest s)) := by
  have hp : (asPhase b rest s).work = s.work := rfl
  unfold tick
  rw [hp]
  cases hw : s.work with
  | none => exact .goesOn s (.refl s)
  | start i =>
    rw [hw] at hc hd
    exact startBody_alike b rest hw (fun h => hc (congrArg some h)) (fun h => hd (congrArg some h))
  | countRead => exact countTick_alike b rest hw
  | putMagic => exact putMagicTick_alike b rest hw
  | putFlag st => exact putFlagTick_alike b rest hw
  | putValue st => exact putValueTick_alike b rest hw
  | getMagic => exact getMagicTick_alike b rest hw
  | getToken st => exact getTokenTick_alike b rest hw
  | getValue i st => exact leafValue_alike b rest _ hw
  | rewind => exact rewindTick_alike b rest hw
  | encodeRead => exact encodeReadTick_alike b rest hw
  | emit c last => exact emitTick_alike b rest hw
  | decodeBit p => exact decodeBitTick_alike b rest hw
  | decodeByte v => exact decodeByteTick_alike b rest hw

end

/-! ## Runs that arrive somewhere -/

/-- From `s` the engine is at `t` after at most `k` pieces of work, whatever it does from there. -/
def Within (k : Nat) (s t : State) : Prop := ∃ m ≤ k, ∀ j, run (m + j) s = run j t

theorem Within.refl (k : Nat) (s : State) : Within k s s := ⟨0, k.zero_le, fun j => by rw [Nat.zero_add]⟩

theorem Within.trans {k l : Nat} {s t u : State} (h : Within k s t) (g : Within l t u) : Within (k + l) s u := by
  obtain ⟨m, hm, hrun⟩ := h
  obtain ⟨n, hn, hrun'⟩ := g
  exact ⟨m + n, Nat.add_le_add hm hn, fun j => by rw [Nat.add_assoc, hrun, hrun']⟩

theorem Within.mono {k l : Nat} {s t : State} (h : Within k s t) (hl : k ≤ l) : Within l s t := by
  obtain ⟨m, hm, hrun⟩ := h
  exact ⟨m, hm.trans hl, hrun⟩

theorem within_tick {s : State} (h : EngineRuns s) (hw : s.waiting = false) : Within 1 s (tick s) :=
  ⟨1, le_rfl, fun j => by rw [Nat.add_comm, Machine.run_succ j h.busy hw h.sched]⟩

/-- A run that arrives at the end of the command is over. -/
theorem Within.run_eq {k n : Nat} {s t : State} (h : Within k s t) (ht : t.phase = .idle) (hn : k ≤ n) : run n s = t := by
  obtain ⟨m, hm, hrun⟩ := h
  obtain ⟨j, rfl⟩ := Nat.exists_eq_add_of_le (hm.trans hn)
  rw [hrun, run_of_idle j ht]

/-- What at most `k` pieces of work of a command's body leave of `s`, beside those of the same body run as a phase: it goes on, it is
done in both, or it has failed in both. -/
inductive PhaseEnds (b : State) (rest : List Instr) (k : Nat) (s : State) : State → Prop where
  | goesOn (t : State) : Steady s t → PhaseEnds b rest k s t
  | done (u : State) : Steady s u → Within k (asPhase b rest s) (phaseDone (asPhase b rest u)) →
      PhaseEnds b rest k s (complete u)
  | failed (e : ErrCode) (q : PortId) (u : State) : Steady s u →
      Within k (asPhase b rest s) (asPhase b [] (raise e q u)) → PhaseEnds b rest k s (raise e q u)

theorem raise_asPhase (e : ErrCode) (q : PortId) (b : State) (rest : List Instr) (u : State) :
    raise e q (asPhase b rest u) = asPhase b [] (raise e q u) := by
  cases hw : u.work <;> simp only [raise, spoil, asPhase, hw] <;> rfl

theorem Steady.phase {s u : State} (h : Steady s u) : u.phase = s.phase := congrArg Prod.fst h.sequencer

theorem Steady.todo {s u : State} (h : Steady s u) : u.todo = s.todo := congrArg (fun p => p.2.1) h.sequencer

theorem Steady.err {s u : State} (h : Steady s u) : u.err = s.err := congrArg (fun p => p.2.2.2.1) h.sequencer

theorem Steady.engineRuns {s u : State} (h : Steady s u) (hs : EngineRuns s) : EngineRuns u := by
  have hpart := h.sequencer
  simp only [State.sequencerPart, Prod.mk.injEq] at hpart
  obtain ⟨hphase, -, -, -, -, -, hsched⟩ := hpart
  exact ⟨hphase ▸ hs.busy, hsched ▸ hs.sched⟩

/-- A command's run beside a phase's. -/
theorem run_phaseEnds (b : State) (rest : List Instr) (k : Nat) {s : State} (hs : EngineRuns s) (ht : s.todo = [])
    (hc : s.work.body ≠ some .compress) (hd : s.work.body ≠ some .decompress) :
    PhaseEnds b rest k s (run k s) := by
  induction k generalizing s with
  | zero => exact .goesOn s (.refl s)
  | succ k ih =>
    cases hw : s.waiting with
    | true =>
      rw [run_of_waiting _ hw]
      exact .goesOn s (.refl s)
    | false =>
      have hfirst : Within 1 (asPhase b rest s) (tick (asPhase b rest s)) := within_tick ⟨hs.busy, hs.sched⟩ hw
      have halike := tick_alike b rest hc hd
      rw [Machine.run_succ k hs.busy hw hs.sched, Nat.add_comm]
      generalize tick s = x, tick (asPhase b rest s) = y at halike hfirst ⊢
      cases halike with
      | goesOn _ hu =>
        have hends := ih (hu.engineRuns hs) (hu.todo.trans ht) (hu.body ▸ hc) (hu.body ▸ hd)
        generalize run k x = t at hends ⊢
        cases hends with
        | goesOn _ htu => exact .goesOn t (hu.trans htu)
        | done v hv hin => exact .done v (hu.trans hv) (hfirst.trans hin)
        | failed e q v hv hin => exact .failed e q v (hu.trans hv) (hfirst.trans hin)
      | done u hu =>
        rw [phaseDone_last (hu.todo.trans ht), run_of_idle k rfl]
        exact .done u hu (hfirst.trans (.refl k _))
      | failed e q u hu =>
        rw [run_of_idle k rfl]
        rw [raise_asPhase] at hfirst
        exact .failed e q u hu (hfirst.trans (.refl k _))

/-! ## How long a command runs -/

/-- The command has ended, or waits for a collaborator. -/
def Settled (s : State) : Prop := s.phase = .idle ∨ s.waiting = true

theorem Settled.run_eq {s : State} (h : Settled s) (k : Nat) : run k s = s := by
  rcases h with h | h
  · exact run_of_idle k h
  · exact run_of_waiting k h

theorem Settled.run_eq_run {s : State} {n k : Nat} (h : Settled (run n s)) (hk : n ≤ k) : run k s = run n s := by
  obtain ⟨j, rfl⟩ := Nat.exists_eq_add_of_le hk
  rw [run_add, h.run_eq]

/-- The subtrees the serializer has still to write take `n` transactions (R140). -/
inductive SerializeLeft (pool : NodeIdx → Node) : List NodeIdx → Nat → Prop where
  | nil : SerializeLeft pool [] 0
  | cons {i : NodeIdx} {t : HTree} {ids : List NodeIdx} {st : List NodeIdx} {n : Nat} :
      IsTree pool i t ids → SerializeLeft pool st n → SerializeLeft pool (i :: st) (t.size + t.leaves + n)

/-- A bound on the pieces of work that the body at hand still has, after the next one, as long as no collaborator is silent. -/
inductive PiecesLeft (s : State) : Nat → Prop where
  | count : s.work = .countRead → PiecesLeft s (s.src.data.length - s.src.pos)
  | putMagic {n : Nat} : s.work = .putMagic → SerializeLeft s.nodeAt [s.root] n → PiecesLeft s (n + 1)
  | putFlag {st : List NodeIdx} {n : Nat} : s.work = .putFlag st → SerializeLeft s.nodeAt st n → PiecesLeft s n
  | putValue {i : NodeIdx} {st : List NodeIdx} {n : Nat} :
      s.work = .putValue (i :: st) → SerializeLeft s.nodeAt st n → PiecesLeft s (n + 1)
  | getMagic : s.work = .getMagic → PiecesLeft s 2049
  | getToken {st : List Frame} : s.work = .getToken st → PiecesLeft s (2 * (1024 - s.nodeCount.toNat))
  | getValue {i : NodeIdx} {st : List Frame} :
      s.work = .getValue i st → PiecesLeft s (2 * (1024 - s.nodeCount.toNat) + 1)
  | rewind : s.work = .rewind → PiecesLeft s (2 * s.src.data.length + 3)
  | encodeRead : s.work = .encodeRead → PiecesLeft s (2 * (s.src.data.length - s.src.pos) + 2)
  | emit {c : Bits} {last : Bool} :
      s.work = .emit c last → PiecesLeft s (if last then 0 else 2 * (s.src.data.length - s.src.pos) + 3)
  | decodeBit {p : NodeIdx} : s.work = .decodeBit p → PiecesLeft s (2 * s.bsrcRest.length)
  | decodeByte {v : Byte} : s.work = .decodeByte v → PiecesLeft s (2 * s.bsrcRest.length + 1)

/-- The command has ended, waits, or has fewer than `n` pieces of work left after the next one. -/
def Advances (n : Nat) (s : State) : Prop := Settled s ∨ ∃ m < n, PiecesLeft s m

theorem Advances.mono {n k : Nat} {s : State} (h : Advances n s) (hk : n ≤ k) : Advances k s := by
  rcases h with h | ⟨m, hm, hl⟩
  · exact .inl h
  · exact .inr ⟨m, hm.trans_le hk, hl⟩

theorem advances_raise (n : Nat) (e : ErrCode) (q : PortId) (s : State) : Advances n (raise e q s) := .inl (.inl rfl)

theorem advances_phaseDone (n : Nat) {s : State} (h : s.todo = []) : Advances n (phaseDone s) :=
  .inl (.inl (by rw [phaseDone_last h]; rfl))

section

variable {s : State}

theorem reply_cases (h : s.waiting = false) {p : PortId} (hp : s.work.port = p) :
    s.replyAt p = .answer ∨ s.replyAt p = .ioerr := by
  have hw : s.replyAt p ≠ .silent := by simpa [State.waiting, hp] using h
  cases hr : s.replyAt p with
  | answer => exact .inl rfl
  | ioerr => exact .inr rfl
  | silent => exact absurd hr hw

theorem put_cases (c : Bits) (h : s.waiting = false) (hp : s.work.port = .bsnk) :
    (∃ e q u, put c s = .stop (raise e q u)) ∨ put c s = .go () (bitsPut c 1 s) := by
  rcases reply_cases h hp with hr | hr
  · rw [put_ok c hr, bitsPut, List.drop_one]
    exact .inr rfl
  · obtain ⟨k, hk⟩ := put_ioerr c hr
    exact .inl ⟨_, _, _, hk⟩

theorem emit_cases (c : Bits) (h : s.waiting = false) (hp : s.work.port = .bsnk) :
    (∃ e q u, emit c s = .stop (raise e q u)) ∨ emit c s = .go () (bitsPut c 1 s) := by
  rcases reply_cases h hp with hr | hr
  · rw [emit_ok c hr, bitsPut, List.drop_one]
    exact .inr rfl
  · obtain ⟨k, n, hk⟩ := emit_ioerr c hr
    exact .inl ⟨_, _, _, hk⟩

theorem get_cases (n : Nat) (e : ErrCode) (h : s.waiting = false) (hp : s.work.port = .bsrc) :
    (∃ e' q u, get n e s = .stop (raise e' q u)) ∨
      n ≤ s.bsrcRest.length ∧ get n e s = .go (num (s.bsrcRest.take n)) (bitsTaken n s) := by
  rcases reply_cases h hp with hr | hr
  · rcases Nat.lt_or_ge s.bsrcRest.length n with hn | hn
    · obtain ⟨pos, hk⟩ := get_eos e hr hn
      exact .inl ⟨_, _, _, hk⟩
    · exact .inr ⟨hn, get_data e hr hn⟩
  · obtain ⟨pos, hk⟩ := get_ioerr n e hr
    exact .inl ⟨_, _, _, hk⟩

/-- `SrcRead8` where SRC is not silent. -/
theorem srcRead_cases (h : s.waiting = false) (hp : s.work.port = .src) :
    (∃ u, srcRead s = (.ioerr, u)) ∨
    (∃ hlt : s.src.pos < s.src.data.length, srcRead s = (.data s.src.data[s.src.pos],
      { s with src := ⟨s.src.data, s.src.pos + 1, s.src.replies.tail⟩ })) ∨
    srcRead s = (.eos, endTaken s) := by
  rcases reply_cases h hp with hr | hr
  · rcases Nat.lt_or_ge s.src.pos s.src.data.length with hlt | hge
    · exact .inr (.inl ⟨hlt, srcRead_data hr (List.getElem?_eq_getElem hlt)⟩)
    · exact .inr (.inr (srcRead_eos hr hge))
  · have he : nextReply s.src.replies = .ioerr := hr
    exact .inl ⟨_, by rw [srcRead, he]⟩

theorem srcRewind_cases (h : s.waiting = false) (hp : s.work.port = .src) :
    (∃ u, srcRewind s = (.ioerr, u)) ∨
      srcRewind s = (.ok, { s with src := ⟨s.src.data, 0, s.src.replies.tail⟩ }) := by
  rcases reply_cases h hp with hr | hr
  · exact .inr (srcRewind_ok hr)
  · have he : nextReply s.src.replies = .ioerr := hr
    exact .inl ⟨_, by rw [srcRewind, he]⟩

theorem byteWrite_cases (v : Byte) (h : s.waiting = false) (hp : s.work.port = .bysnk) :
    (∃ u, byteWrite v s = (.ioerr, u)) ∨
      byteWrite v s = (.ok, { s with bysnk := ⟨s.bysnk.bytes ++ [v], s.bysnk.replies.tail⟩ }) := by
  rcases reply_cases h hp with hr | hr
  · exact .inr (byteWrite_ok v hr)
  · have he : nextReply s.bysnk.replies = .ioerr := hr
    exact .inl ⟨_, by rw [byteWrite, he]⟩

theorem advances_serNext {st : List NodeIdx} {n k : Nat} (h : SerializeLeft s.nodeAt st n) (ht : s.todo = [])
    (hn : n < k) : Advances k (serNext st s) := by
  cases st with
  | nil => exact advances_phaseDone k ht
  | cons i st => exact .inr ⟨n, hn, .putFlag rfl h⟩

theorem advances_closeSubtree (r : NodeIdx) (st : List Frame) {k : Nat} (ht : s.todo = [])
    (hk : 2 * (1024 - s.nodeCount.toNat) < k) : Advances k (closeSubtree r st s) := by
  induction st generalizing r s with
  | nil => exact advances_phaseDone k ht
  | cons f st ih =>
    obtain ⟨i, _ | l⟩ := f
    · exact .inr ⟨_, hk, .getToken rfl⟩
    · exact ih i ht hk

theorem advances_arrive (p : NodeIdx) {k : Nat} (ht : s.todo = []) (hk : 2 * s.bsrcRest.length + 1 < k) :
    Advances k (arrive p s) := by
  cases hl : (s.nodeAt p).isLeaf with
  | false =>
    rw [arrive_internal hl]
    exact .inr ⟨_, (Nat.lt_succ_self _).trans hk, .decodeBit rfl⟩
  | true =>
    by_cases hv : (s.nodeAt p).value.toNat = 256
    · rw [arrive_sentinel hl hv]
      exact advances_phaseDone k ht
    · rw [arrive_byte hl hv]
      exact .inr ⟨_, hk, .decodeByte rfl⟩

theorem advances_emitCode (c : Bits) (last : Bool) {k : Nat}
    (hk : (if last then 0 else 2 * (s.src.data.length - s.src.pos) + 3) < k) : Advances k (emitCode c last s) := by
  unfold emitCode
  split
  · exact advances_raise ..
  · exact .inr ⟨_, hk, .emit rfl⟩

section

variable (hw : s.waiting = false)
include hw

theorem advances_countTick (ht : s.todo = []) (hk : s.work = .countRead) :
    Advances (s.src.data.length - s.src.pos) (countTick s) := by
  unfold countTick
  rcases srcRead_cases hw (by rw [hk]; rfl) with ⟨u, h⟩ | ⟨hlt, h⟩ | h
  · rw [h]
    exact advances_raise ..
  · rw [h]
    simp only [countByte]
    split
    · exact advances_raise ..
    · refine .inr ⟨s.src.data.length - (s.src.pos + 1), by omega, .count hk⟩
  · rw [h]
    exact advances_phaseDone _ ht

theorem advances_putMagicTick {n : Nat} (hk : s.work = .putMagic) (hl : SerializeLeft s.nodeAt [s.root] n) :
    Advances (n + 1) (putMagicTick s) := by
  unfold putMagicTick
  rcases put_cases _ hw (by rw [hk]; rfl) with ⟨e, q, u, h⟩ | h
  · rw [h]
    exact advances_raise ..
  · rw [h]
    exact .inr ⟨n, Nat.lt_succ_self n, .putFlag rfl hl⟩

theorem advances_putFlagTick (ht : s.todo = []) {st : List NodeIdx} {n : Nat} (hk : s.work = .putFlag st)
    (hl : SerializeLeft s.nodeAt st n) : Advances n (putFlagTick st s) := by
  cases hl with
  | nil => exact advances_phaseDone _ ht
  | cons htree hrest =>
    rename_i i t ids st n
    unfold putFlagTick
    rcases put_cases [(s.nodeAt i).isLeaf] hw (by rw [hk]; rfl) with ⟨e, q, u, h⟩ | h
    · simp only [h]
      exact advances_raise ..
    · simp only [h]
      cases htree with
      | leaf _ v hleaf hv =>
        rw [if_pos hleaf]
        refine .inr ⟨n + 1, by simp only [HTree.size, HTree.leaves]; omega, .putValue rfl hrest⟩
      | node _ l r il ir hnode hl hr =>
        rw [hnode, if_neg nofun]
        exact advances_serNext (.cons hl (.cons hr hrest)) ht (by simp only [HTree.size, HTree.leaves]; omega)

theorem advances_putValueTick (ht : s.todo = []) {i : NodeIdx} {st : List NodeIdx} {n : Nat} (hk : s.work = .putValue (i :: st))
    (hl : SerializeLeft s.nodeAt st n) : Advances (n + 1) (putValueTick (i :: st) s) := by
  unfold putValueTick
  rcases put_cases (bitsN 9 (s.nodeAt i).value.toNat) hw (by rw [hk]; rfl) with ⟨e, q, u, h⟩ | h
  · simp only [h]
    exact advances_raise ..
  · simp only [h]
    exact advances_serNext hl ht (Nat.lt_succ_self n)

theorem advances_getMagicTick (hk : s.work = .getMagic) : Advances 2049 (getMagicTick s) := by
  unfold getMagicTick
  rcases get_cases 32 .formatMismatch hw (by rw [hk]; rfl) with ⟨e, q, u, h⟩ | ⟨-, h⟩
  · rw [h]
    exact advances_raise ..
  · rw [h]
    dsimp only
    split
    · exact .inr ⟨2 * (1024 - s.nodeCount.toNat), by omega, .getToken rfl⟩
    · exact advances_raise ..

theorem advances_leafValue (ht : s.todo = []) (v : Nat) {i : NodeIdx} {st : List Frame} (hk : s.work = .getValue i st) :
    Advances (2 * (1024 - s.nodeCount.toNat) + 1) (leafValue v i st s) := by
  unfold leafValue
  rcases get_cases 9 .truncatedHeader hw (by rw [hk]; rfl) with ⟨e, q, u, h⟩ | ⟨-, h⟩
  · rw [h]
    exact advances_raise ..
  · rw [h]
    exact advances_closeSubtree i st ht (Nat.lt_succ_self _)

/-- The flag bit of a token: an error, or a pool entry is free (R142). -/
theorem getFlag_cases (hp : s.work.port = .bsrc) :
    (∃ e q u, getFlag s = .stop (raise e q u)) ∨ s.nodeCount.toNat < 513 ∧ getFlag s = .go () (treeBitsTaken 1 s) := by
  unfold getFlag
  rcases get_cases 1 .truncatedHeader hw hp with ⟨e, q, u, h⟩ | ⟨-, h⟩
  · rw [h]
    exact .inl ⟨e, q, u, rfl⟩
  · rw [h]
    by_cases hc : Config.nodeCap ≤ s.nodeCount.toNat
    · exact .inl ⟨_, _, _, if_pos hc⟩
    · exact .inr ⟨Nat.not_le.mp hc, if_neg hc⟩

theorem advances_internalToken {st : List Frame} (hk : s.work = .getToken st) :
    Advances (2 * (1024 - s.nodeCount.toNat)) (internalToken st s) := by
  unfold internalToken
  rcases getFlag_cases hw (by rw [hk]; rfl) with ⟨e, q, u, h⟩ | ⟨hc, h⟩
  · rw [h]
    exact advances_raise ..
  · rw [h]
    refine .inr ⟨2 * (1024 - (s.nodeCount + 1).toNat), ?_, .getToken rfl⟩
    bv_omega

theorem advances_leafToken (ht : s.todo = []) (v : Nat) {st : List Frame} (hk : s.work = .getToken st) :
    Advances (2 * (1024 - s.nodeCount.toNat)) (leafToken v st s) := by
  unfold leafToken
  rcases getFlag_cases hw (by rw [hk]; rfl) with ⟨e, q, u, h⟩ | ⟨hc, h⟩
  · rw [h]
    exact advances_raise ..
  · rw [h]
    show Advances _ (leafValue v s.nodeCount st (leafAllocated st (treeBitsTaken 1 s)))
    cases hwait : (leafAllocated st (treeBitsTaken 1 s)).waiting with
    | true =>
      have hsilent : nextReply (leafAllocated st (treeBitsTaken 1 s)).bsrc.replies = .silent := of_decide_eq_true hwait
      rw [leafValue, get_silent 9 _ hsilent]
      exact .inl (.inr hwait)
    | false =>
      refine (advances_leafValue hwait ht v rfl).mono ?_
      show 2 * (1024 - (s.nodeCount + 1).toNat) + 1 ≤ _
      bv_omega

theorem advances_getTokenTick (ht : s.todo = []) {st : List Frame} (hk : s.work = .getToken st) :
    Advances (2 * (1024 - s.nodeCount.toNat)) (getTokenTick st s) := by
  unfold getTokenTick
  split
  · exact advances_leafToken hw ht _ hk
  · exact advances_internalToken hw hk

theorem advances_rewindTick (hk : s.work = .rewind) : Advances (2 * s.src.data.length + 3) (rewindTick s) := by
  unfold rewindTick
  rcases srcRewind_cases hw (by rw [hk]; rfl) with ⟨u, h⟩ | h
  · rw [h]
    exact advances_raise ..
  · rw [h]
    exact .inr ⟨2 * s.src.data.length + 2, Nat.lt_succ_self _, .encodeRead rfl⟩

theorem advances_encodeReadTick (hk : s.work = .encodeRead) :
    Advances (2 * (s.src.data.length - s.src.pos) + 2) (encodeReadTick s) := by
  unfold encodeReadTick
  rcases srcRead_cases hw (by rw [hk]; rfl) with ⟨u, h⟩ | ⟨hlt, h⟩ | h
  · rw [h]
    exact advances_raise ..
  · rw [h]
    refine advances_emitCode _ false ?_
    show 2 * (s.src.data.length - (s.src.pos + 1)) + 3 < _
    omega
  · rw [h]
    exact advances_emitCode _ true (Nat.succ_pos _)

theorem advances_emitTick (ht : s.todo = []) {c : Bits} {last : Bool} (hk : s.work = .emit c last) :
    Advances (if last then 0 else 2 * (s.src.data.length - s.src.pos) + 3) (emitTick c last s) := by
  unfold emitTick
  rcases emit_cases c hw (by rw [hk]; rfl) with ⟨e, q, u, h⟩ | h
  · rw [h]
    exact advances_raise ..
  · rw [h]
    cases last with
    | true => exact advances_phaseDone _ ht
    | false => exact .inr ⟨_, Nat.lt_succ_self _, .encodeRead rfl⟩

theorem advances_decodeBitTick (ht : s.todo = []) {p : NodeIdx} (hk : s.work = .decodeBit p) :
    Advances (2 * s.bsrcRest.length) (decodeBitTick p s) := by
  unfold decodeBitTick
  rcases get_cases 1 .truncatedBody hw (by rw [hk]; rfl) with ⟨e, q, u, h⟩ | ⟨hn, h⟩
  · rw [h]
    exact advances_raise ..
  · rw [h]
    refine advances_arrive _ ht ?_
    rw [bsrcRest_bitsTaken, List.length_drop]
    omega

theorem advances_decodeByteTick {v : Byte} (hk : s.work = .decodeByte v) :
    Advances (2 * s.bsrcRest.length + 1) (decodeByteTick v s) := by
  unfold decodeByteTick
  rcases byteWrite_cases v hw (by rw [hk]; rfl) with ⟨u, h⟩ | h
  · rw [h]
    exact advances_raise ..
  · rw [h]
    exact .inr ⟨2 * s.bsrcRest.length, Nat.lt_succ_self _, .decodeBit rfl⟩

/-- One piece of work less is left (R230). -/
theorem PiecesLeft.advances_tick {n : Nat} (h : PiecesLeft s n) (ht : s.todo = []) : Advances n (tick s) := by
  unfold tick
  cases h with
  | count hk => rw [hk]; exact advances_countTick hw ht hk
  | putMagic hk hl => rw [hk]; exact advances_putMagicTick hw hk hl
  | putFlag hk hl => rw [hk]; exact advances_putFlagTick hw ht hk hl
  | putValue hk hl => rw [hk]; exact advances_putValueTick hw ht hk hl
  | getMagic hk => rw [hk]; exact advances_getMagicTick hw hk
  | getToken hk => rw [hk]; exact advances_getTokenTick hw ht hk
  | getValue hk => rw [hk]; exact advances_leafValue hw ht _ hk
  | rewind hk => rw [hk]; exact advances_rewindTick hw hk
  | encodeRead hk => rw [hk]; exact advances_encodeReadTick hw hk
  | emit hk => rw [hk]; exact advances_emitTick hw ht hk
  | decodeBit hk => rw [hk]; exact advances_decodeBitTick hw ht hk
  | decodeByte hk => rw [hk]; exact advances_decodeByteTick hw hk

end

end

/-- The run of a body that advances ends or waits within the pieces of work it has left (R230). -/
theorem settled_run {s : State} {n : Nat} (h : s.waiting = false → Advances n (tick s)) (hs : EngineRuns s)
    (ht : s.todo = []) (hc : s.work.body ≠ some .compress) (hd : s.work.body ≠ some .decompress) :
    Settled (run (n + 1) s) := by
  induction n using Nat.strong_induction_on generalizing s with
  | _ n ih =>
    cases hw : s.waiting with
    | true =>
      rw [run_of_waiting _ hw]
      exact .inr hw
    | false =>
      have hadv := h hw
      have halike := tick_alike s [] hc hd
      rw [Machine.run_succ n hs.busy hw hs.sched]
      generalize tick s = x, tick (asPhase s [] s) = y at hadv halike ⊢
      rcases hadv with hx | ⟨m, hm, hl⟩
      · rwa [hx.run_eq]
      · cases halike with
        | goesOn _ hu =>
          have hu' := hu.todo.trans ht
          have hrun := ih m hm (hl.advances_tick · hu') (hu.engineRuns hs) hu' (hu.body ▸ hc) (hu.body ▸ hd)
          rwa [hrun.run_eq_run hm]
        | done u hu =>
          rw [phaseDone_last (hu.todo.trans ht), run_of_idle n rfl]
          exact .inl rfl
        | failed e q u hu =>
          rw [run_of_idle n rfl]
          exact .inl rfl

/-- A bound on the pieces of work of command `i`, but for the first. -/
def commandPieces (i : Instr) (s : State) : Nat :=
  match i with
  | .count => s.src.data.length + 1
  | .wrhdr => 772
  | .encode => 2 * s.src.data.length + 4
  | .rdhdr => 2050
  | .decode => 2 * s.bsrc.bits.length + 1
  | _ => 0

/-- A tree of the pool takes at most 770 transactions (R39, R140). -/
theorem HoldsTree.serializeLeft {s : State} {t : HTree} (h : HoldsTree s t) :
    SerializeLeft s.nodeAt [s.root] (t.size + t.leaves) ∧ t.size + t.leaves ≤ 770 := by
  obtain ⟨ids, htree, -⟩ := h.tree
  have hsize := h.size_le
  have hleaves := t.size_add_one
  exact ⟨.cons htree .nil, by omega⟩

theorem advances_ite {n : Nat} {s t : State} (c : Bool) (h : c = true → Advances n s) (g : c = false → Advances n t) :
    Advances n (if c then s else t) := by
  cases c with
  | true => exact h rfl
  | false => exact g rfl

/-- The first piece of work of a command. -/
theorem advances_startBody {i : Instr} {s : State} (hi : i.slot = .command) (ht : s.todo = []) (hc : i ≠ .compress)
    (hd : i ≠ .decompress) (htree : i = .wrhdr → s.treeValid = true → ∃ t, HoldsTree s t) :
    Advances (commandPieces i s) (startBody i s) := by
  have hbuilt : ∀ {u : State}, BuilderOnly s u → Advances 0 (phaseDone u) := fun hu =>
    advances_phaseDone 0 ((congrArg State.todo hu).trans ht)
  cases i with
  | nop => exact advances_phaseDone _ ht
  | clear => exact advances_phaseDone _ ht
  | count => exact .inr ⟨s.src.data.length - s.src.pos, by simp only [commandPieces]; omega, .count rfl⟩
  | buildInit => exact advances_ite _ (fun _ => hbuilt (builderOnly_buildInitBody s)) fun _ => advances_raise ..
  | buildMerge => exact advances_ite _ (fun _ => hbuilt (builderOnly_buildMergeBody s)) fun _ => advances_raise ..
  | build => exact advances_ite _ (fun _ => hbuilt (builderOnly_buildBody s)) fun _ => advances_raise ..
  | gencodes =>
    exact advances_ite _ (fun _ => advances_raise ..) fun _ =>
      advances_ite _ (fun _ => advances_raise ..) fun _ => advances_phaseDone _ ht
  | wrhdr =>
    refine advances_ite _ (fun hv => ?_) fun _ => advances_raise ..
    obtain ⟨t, h⟩ := htree rfl hv
    obtain ⟨hl, hn⟩ := h.serializeLeft
    exact .inr ⟨t.size + t.leaves + 1, by simp only [commandPieces]; omega, .putMagic rfl hl⟩
  | encode => exact advances_ite _ (fun _ => .inr ⟨_, Nat.lt_succ_self _, .rewind rfl⟩) fun _ => advances_raise ..
  | rdhdr => exact .inr ⟨2049, Nat.lt_succ_self _, .getMagic rfl⟩
  | decode =>
    refine advances_ite _ (fun _ => advances_raise ..) fun _ => advances_ite _ (fun _ => advances_raise ..) fun _ => ?_
    refine .inr ⟨2 * s.bsrcRest.length, ?_, .decodeBit rfl⟩
    simp only [commandPieces, State.bsrcRest, List.length_drop]
    omega
  | compress => exact absurd rfl hc
  | decompress => exact absurd rfl hd
  | magic => cases hi
  | internal => cases hi
  | leaf v => cases hi

/-- Command `i`, not a composite one, can run undisturbed from `s`; for WRHDR a valid tree is a tree (R39). -/
structure Startable (i : Instr) (s : State) : Prop where
  command    : i.slot = .command
  compress   : i ≠ .compress
  decompress : i ≠ .decompress
  ready      : Ready s
  tree       : i = .wrhdr → s.treeValid = true → ∃ t, HoldsTree s t

/-- A command that the host does not interrupt has ended or waits after its pieces of work (R230). -/
theorem settled_run_accepted {i : Instr} {s : State} (hs : Startable i s) :
    Settled (run (commandPieces i s + 1) (accepted i s)) := by
  obtain ⟨hi, hc, hd, hr, htree⟩ := hs
  refine settled_run (fun _ => ?_) ⟨nofun, hr.2⟩ rfl (fun h => hc (Option.some.inj h)) fun h => hd (Option.some.inj h)
  exact advances_startBody (s := accepted i s) hi rfl hc hd fun hw hv => (htree hw hv).imp fun _ h => h.congr rfl

/-! ## A phase leaves what its command leaves -/

theorem commandPieces_lt_workBound (i : Instr) (s : State) : commandPieces i s < s.workBound := by
  unfold State.workBound commandPieces
  split <;> omega

/-- The run of a command beside the run of its body as a phase, from acceptance on. -/
theorem exec_phaseEnds {i : Instr} {s t : State} (hs : Startable i s) (h : exec i s = .next t) (b : State)
    (rest : List Instr) : PhaseEnds b rest (commandPieces i s + 1) (accepted i s) t := by
  rw [exec_command hs.command, runCommand_of_idle i hs.ready.1] at h
  cases h
  rw [← accepted, (settled_run_accepted hs).run_eq_run (commandPieces_lt_workBound i s)]
  exact run_phaseEnds b rest _ ⟨nofun, hs.ready.2⟩ rfl (fun h => hs.compress (Option.some.inj h))
    fun h => hs.decompress (Option.some.inj h)

/-- What a command that has ended leaves of the sequencer, the turns, and the counters that are not its own (R191, R192, R193). -/
theorem exec_ended {i : Instr} {s t : State} (hs : Startable i s) (h : exec i s = .next t) (hp : t.phase = .idle) :
    t.todo = [] ∧ t.sched = [] ∧ t.uncounted (some i) = (0, 0, 0, 0, 0, false) := by
  have hzero : (accepted i s).uncounted (some i) = (0, 0, 0, 0, 0, false) := by
    cases i <;> rfl
  have hsched : ∀ {u : State}, Steady (accepted i s) u → u.sched = [] := fun hu => (hu.engineRuns ⟨nofun, hs.ready.2⟩).sched
  have hends := exec_phaseEnds hs h s []
  cases hends with
  | goesOn _ hu => exact absurd (hu.phase.symm.trans hp) nofun
  | done u hu => exact ⟨rfl, (hsched hu :), hu.counters.trans hzero⟩
  | failed e q u hu =>
    obtain ⟨f, n, d, hraise⟩ := raise_frame e q u
    rw [hraise]
    exact ⟨rfl, (hsched hu :), hu.counters.trans hzero⟩

theorem eosSeen_of_uncounted {i : Instr} {s : State} (hi : i ≠ .decode) :
    (s.uncounted (some i)).2.2.2.2.2 = s.eosSeen := by
  cases i with
  | decode => exact absurd rfl hi
  | _ => rfl

/-- `c`, which the phases before left, is what their commands left, `p`, but for what acceptance clears or overwrites: STATUS and
ERRINFO are as in a command that runs (R27, R191), LAST_OPC is the composite command's, and the counters count on. -/
def CarriesOn (p c : State) : Prop :=
  c = { p with
    phase := c.phase, work := c.work, todo := c.todo, lastOpc := c.lastOpc
    done := false, err := false, errCode := .none, errInfo := ⟨.none, 0⟩, eosSeen := false
    symIn := c.symIn, bitsOut := c.bitsOut, bitsIn := c.bitsIn, bytesOut := c.bytesOut, hdrBits := c.hdrBits }

/-- What a phase leaves to the next one, where the phases before it left `c` and its command ended in `t`. -/
def handOver (c t : State) : State := { asPhase c [] t with done := false }

section

variable {i : Instr} {p c t : State}

theorem CarriesOn.beginPhase_eq (h : CarriesOn p c) (i : Instr) (rest : List Instr) :
    beginPhase i rest c = asPhase c rest (accepted i p) := by
  conv_lhs => rw [h]
  simp only [beginPhase, asPhase, accepted, accept, commandWord_low, add_zero]

/-- A failing phase ends the composite command with its error (R196). -/
theorem phase_failed (hs : Startable i p) (hc : CarriesOn p c) (h : exec i p = .next t) (he : t.err = true)
    (rest : List Instr) : t.phase = .idle ∧ Within (commandPieces i p + 1) (beginPhase i rest c) (asPhase c [] t) := by
  have hends := exec_phaseEnds hs h c rest
  have hclear : ∀ {u : State}, Steady (accepted i p) u → u.err ≠ true := fun hu => by
    rw [hu.err]
    exact nofun
  rw [hc.beginPhase_eq]
  cases hends with
  | goesOn _ hu => exact absurd he (hclear hu :)
  | done u hu => exact absurd he (hclear hu :)
  | failed e q u hu hin => exact ⟨rfl, hin⟩

/-- A phase that is done gives way to the next one (R182, R183). -/
theorem phase_done (hs : Startable i p) (hc : CarriesOn p c) (h : exec i p = .next t) (hp : t.phase = .idle)
    (he : t.err = false) (hd : i ≠ .decode) (j : Instr) (rest : List Instr) :
    Within (commandPieces i p + 1) (beginPhase i (j :: rest) c) (beginPhase j rest (handOver c t)) ∧
      CarriesOn t (handOver c t) := by
  have hends := exec_phaseEnds hs h c (j :: rest)
  rw [hc.beginPhase_eq]
  cases hends with
  | goesOn _ hu => exact absurd (hu.phase.symm.trans hp) nofun
  | done u hu hin =>
    obtain ⟨-, -, hcounters⟩ := exec_ended hs h hp
    have heos : u.eosSeen = false := (eosSeen_of_uncounted (s := complete u) hd).symm.trans (by rw [hcounters])
    have hpart := hu.sequencer
    simp only [State.sequencerPart, accepted, accept, Prod.mk.injEq] at hpart
    obtain ⟨-, -, hdone, herr, hcode, hinfo, -⟩ := hpart
    refine ⟨?_, ?_⟩
    · have hnext : phaseDone (asPhase c (j :: rest) u) = beginPhase j rest (handOver c (complete u)) := by
        rw [phaseDone_more rfl]
        simp only [beginPhase, handOver, asPhase, complete, hdone]
      rwa [hnext] at hin
    · simp only [CarriesOn, handOver, asPhase, complete, herr, hcode, hinfo, heos]
  | failed e q u hu hin => cases he

/-- The last phase ends the composite command (R192, R193). -/
theorem phase_last (hs : Startable i p) (hc : CarriesOn p c) (h : exec i p = .next t) (hp : t.phase = .idle) :
    Within (commandPieces i p + 1) (beginPhase i [] c) (asPhase c [] t) := by
  have hends := exec_phaseEnds hs h c []
  rw [hc.beginPhase_eq]
  cases hends with
  | goesOn _ hu => exact absurd (hu.phase.symm.trans hp) nofun
  | done u hu hin => exact hin
  | failed e q u hu hin => exact hin

end

/-! ## COMPRESS as its phases' commands -/

/-- The engine is in COUNT's body, run as a command, or COUNT has ended: with an error or with FREQ valid (R100). -/
def CountRuns (s : State) : Prop :=
  s.phase ≠ .idle ∧ s.todo = [] ∧ s.work.body = some .count ∨ s.phase = .idle ∧ (s.err = true ∨ s.freqValid = true)

theorem countRuns_countTick {s : State} (hb : s.phase ≠ .idle) (ht : s.todo = []) (hw : s.work = .countRead) :
    CountRuns (countTick s) := by
  have hbody : s.work.body = some .count := by rw [hw]; rfl
  unfold countTick
  obtain ⟨r, pos, rs, d, h⟩ := srcRead_frame s
  rw [h]
  cases r with
  | data x =>
    simp only [countByte]
    split
    · exact .inr ⟨rfl, .inl rfl⟩
    · exact .inl ⟨hb, ht, hbody⟩
  | eos =>
    dsimp only
    rw [phaseDone_last (by exact ht)]
    exact .inr ⟨rfl, .inr rfl⟩
  | ioerr => exact .inr ⟨rfl, .inl rfl⟩
  | silent => exact .inl ⟨hb, ht, hbody⟩

theorem countRuns_tick {s : State} (hb : s.phase ≠ .idle) (h : CountRuns s) : CountRuns (tick s) := by
  obtain ⟨-, ht, hbody⟩ | ⟨hp, -⟩ := h
  · unfold tick
    cases hw : s.work with
    | start i =>
      rw [hw] at hbody
      obtain rfl := Option.some.inj hbody
      exact .inl ⟨hb, ht, rfl⟩
    | countRead => exact countRuns_countTick hb ht hw
    | _ => simp [hw, Work.body] at hbody
  · exact absurd hp hb

/-- COUNT without an error leaves FREQ valid (R100). -/
theorem freqValid_of_exec_count {s t : State} (hr : Ready s) (h : exec .count s = .next t) (hp : t.phase = .idle)
    (he : t.err = false) : t.freqValid = true := by
  have hrun : CountRuns (run s.workBound (accepted .count s)) :=
    run_keeps (P := CountRuns) (fun _ h => h) (fun _ hb h => countRuns_tick hb h) _ (.inl ⟨nofun, rfl, rfl⟩)
  rw [exec_command rfl, runCommand_of_idle _ hr.1] at h
  rw [accepted, Host.Outcome.next.inj h] at hrun
  obtain ⟨hb, -⟩ | ⟨-, herr | hv⟩ := hrun
  · exact absurd hp hb
  · exact absurd herr (by rw [he]; exact nofun)
  · exact hv

/-- A composite command's result is where its run arrives. -/
theorem exec_of_within {i : Instr} {s t : State} {k : Nat} (hi : i.slot = .command) (hr : Ready s)
    (h : Within k (accepted i s) t) (ht : t.phase = .idle) (hk : k ≤ s.workBound) : exec i s = .next t := by
  rw [exec_command hi, runCommand_of_idle i hr.1]
  exact congrArg _ (h.run_eq ht hk)

theorem within_compress {s : State} (hr : Ready s) : Within 1 (accepted .compress s)
    (beginPhase .count [.build, .gencodes, .wrhdr, .encode] (accepted .compress s)) :=
  within_tick ⟨nofun, hr.2⟩ rfl

/-- COMPRESS up to WRHDR, where COUNT does not fail: BUILD and GENCODES never do (R182). -/
theorem within_compress_wrhdr {s a b c : State} (hr : Ready s) (hcount : exec .count s = .next a) (he : a.err = false)
    (hp : a.phase = .idle) (hbuild : exec .build a = .next b) (hgen : exec .gencodes b = .next c) : ∃ k,
    Within (s.src.data.length + 5) (accepted .compress s) (beginPhase .wrhdr [.encode] k) ∧ CarriesOn c k ∧
      Startable .wrhdr c ∧ k.lastOpc = 0x09 ∧ k.uncounted none = (a.symIn, 0, 0, 0, 0, false) := by
  have hstart : Startable .count s := ⟨rfl, nofun, nofun, hr, nofun⟩
  obtain ⟨-, hsched, hcounters⟩ := exec_ended hstart hcount hp
  have hra : Ready a := ⟨hp, hsched⟩
  obtain ⟨b', tree, hb, hbeq, htree, h2, -⟩ :=
    buildMakesAHuffmanTree a hra (freqValid_of_exec_count hr hcount hp he)
  obtain rfl := Host.Outcome.next.inj (hb.symm.trans hbuild)
  have hrb : Ready b' := by
    rw [hbeq]
    exact ⟨rfl, hsched⟩
  have heb : b'.err = false := by rw [hbeq]; rfl
  obtain ⟨ids, hids, -⟩ := htree.tree
  have hc := gencodesRecordsLeafPaths b' tree hrb htree (hids.root_internal_of_two h2)
  obtain rfl := Host.Outcome.next.inj (hc.symm.trans hgen)
  have hbuildS : Startable .build a := ⟨rfl, nofun, nofun, hra, nofun⟩
  have hgenS : Startable .gencodes b' := ⟨rfl, nofun, nofun, hrb, nofun⟩
  obtain ⟨h₁, hcarry₁⟩ :=
    phase_done hstart (c := accepted .compress s) rfl hcount hp he nofun .build [.gencodes, .wrhdr, .encode]
  obtain ⟨h₂, hcarry₂⟩ := phase_done hbuildS hcarry₁ hbuild hrb.1 heb nofun .gencodes [.wrhdr, .encode]
  obtain ⟨h₃, hcarry₃⟩ := phase_done hgenS hcarry₂ hgen rfl rfl nofun .wrhdr [.encode]
  refine ⟨_, ?_, hcarry₃, ⟨rfl, nofun, nofun, ⟨rfl, hrb.2⟩, fun _ _ => ⟨tree, htree.congr rfl⟩⟩, rfl, ?_⟩
  · exact ((within_compress hr).trans (h₁.trans (h₂.trans h₃))).mono (by simp only [commandPieces]; omega)
  · have hcountersB := (exec_ended hbuildS hbuild hrb.1).2.2
    simp only [State.uncounted, Prod.mk.injEq] at hcounters hcountersB
    obtain ⟨-, hbitsOut, hbitsIn, hbytesOut, hhdrBits, heos⟩ := hcounters
    obtain ⟨hsymInB, hbitsOutB, hbitsInB, hbytesOutB, hhdrBitsB, -⟩ := hcountersB
    simp only [State.uncounted, handOver, asPhase, accepted, accept, finished, hbitsOut, hbitsIn, hbytesOut, hhdrBits,
      hsymInB, hbitsOutB, hbitsInB, hbytesOutB, hhdrBitsB, add_zero, zero_add]

theorem asPhase_last {b t : State} (ht : t.todo = []) : asPhase b [] t = { t with
    lastOpc := b.lastOpc, symIn := b.symIn + t.symIn, bitsOut := b.bitsOut + t.bitsOut
    bitsIn := b.bitsIn + t.bitsIn, bytesOut := b.bytesOut + t.bytesOut, hdrBits := b.hdrBits + t.hdrBits } := by
  rw [asPhase, ← ht]

theorem srcData_of_exec {i : Instr} {s t : State} (h : exec i s = .next t) : t.src.data = s.src.data :=
  (engineKeeps_exec h).1.srcData

/-- Settles O46: the run of each phase is its command's (`phase_failed`, `phase_done`, `phase_last`), and up to WRHDR
only COUNT can fail (`within_compress_wrhdr`). -/
theorem compressRunsItsPhases : Obligations.CompressRunsItsPhases := by
  intro s a b c d e hr hcount
  have hstart : Startable .count s := ⟨rfl, nofun, nofun, hr, nofun⟩
  refine ⟨fun he => ?_, fun he hp hbuild hgen hwrhdr => ?_⟩
  · obtain ⟨hp, hend⟩ := phase_failed hstart (c := accepted .compress s) rfl hcount he [.build, .gencodes, .wrhdr, .encode]
    obtain ⟨htodo, -⟩ := exec_ended hstart hcount hp
    rw [exec_of_within rfl hr ((within_compress hr).trans hend) hp
      (by simp only [commandPieces, State.workBound]; omega), asPhase_last htodo]
    simp only [accepted, accept, zero_add]
    rfl
  · obtain ⟨k, hbefore, hcarry, hstartW, hopc, hcounters⟩ := within_compress_wrhdr hr hcount he hp hbuild hgen
    simp only [State.uncounted, Prod.mk.injEq] at hcounters
    obtain ⟨hsymIn, hbitsOut, hbitsIn, hbytesOut, hhdrBits, -⟩ := hcounters
    refine ⟨fun he => ?_, fun he hp hencode hpe => ?_⟩
    · obtain ⟨hp, hend⟩ := phase_failed hstartW hcarry hwrhdr he [.encode]
      obtain ⟨htodo, -, hown⟩ := exec_ended hstartW hwrhdr hp
      simp only [State.uncounted, Prod.mk.injEq] at hown
      obtain ⟨hsymInD, -⟩ := hown
      rw [exec_of_within rfl hr (hbefore.trans hend) hp (by simp only [commandPieces, State.workBound]; omega),
        asPhase_last htodo]
      simp only [hopc, hsymIn, hbitsOut, hbitsIn, hbytesOut, hhdrBits, hsymInD, zero_add, add_zero]
    · obtain ⟨hnext, hcarry'⟩ := phase_done hstartW hcarry hwrhdr hp he nofun .encode []
      obtain ⟨-, hsched, hownD⟩ := exec_ended hstartW hwrhdr hp
      have hstartE : Startable .encode d := ⟨rfl, nofun, nofun, ⟨hp, hsched⟩, nofun⟩
      have hend := hbefore.trans (hnext.trans (phase_last hstartE hcarry' hencode hpe))
      obtain ⟨htodo, -, hownE⟩ := exec_ended hstartE hencode hpe
      have hdata : d.src.data = s.src.data := by
        rw [srcData_of_exec hwrhdr, srcData_of_exec hgen, srcData_of_exec hbuild, srcData_of_exec hcount]
      simp only [State.uncounted, Prod.mk.injEq] at hownD hownE
      obtain ⟨hsymInD, -, hbitsInD, hbytesOutD, -⟩ := hownD
      obtain ⟨-, -, -, -, hhdrBitsE, -⟩ := hownE
      rw [exec_of_within rfl hr hend hpe (by simp only [commandPieces, State.workBound, hdata]; omega),
        asPhase_last htodo]
      simp only [handOver, asPhase, hopc, hsymIn, hbitsOut, hbitsIn, hbytesOut, hhdrBits, hsymInD, hbitsInD, hbytesOutD,
        hhdrBitsE, zero_add, add_zero]

/-- Settles O48: the runs of RDHDR and DECODE as phases are their commands' (`phase_failed`, `phase_done`, `phase_last`). -/
theorem decompressRunsItsPhases : Obligations.DecompressRunsItsPhases := by
  intro s a b hr hrdhdr
  have hstart : Startable .rdhdr s := ⟨rfl, nofun, nofun, hr, nofun⟩
  have hfirst : Within 1 (accepted .decompress s) (beginPhase .rdhdr [.decode] (accepted .decompress s)) :=
    within_tick ⟨nofun, hr.2⟩ rfl
  refine ⟨fun he => ?_, fun he hp hdecode hpb => ?_⟩
  · obtain ⟨hp, hend⟩ := phase_failed hstart (c := accepted .decompress s) rfl hrdhdr he [.decode]
    obtain ⟨htodo, -, hown⟩ := exec_ended hstart hrdhdr hp
    simp only [State.uncounted, Prod.mk.injEq] at hown
    obtain ⟨-, -, -, hbytesOut, -⟩ := hown
    refine ⟨?_, hbytesOut⟩
    rw [exec_of_within rfl hr (hfirst.trans hend) hp (by simp only [commandPieces, State.workBound]; omega),
      asPhase_last htodo]
    simp only [accepted, accept, zero_add]
    rfl
  · obtain ⟨hnext, hcarry⟩ := phase_done hstart (c := accepted .decompress s) rfl hrdhdr hp he nofun .decode []
    obtain ⟨-, hsched, hownA⟩ := exec_ended hstart hrdhdr hp
    have hstartD : Startable .decode a := ⟨rfl, nofun, nofun, ⟨hp, hsched⟩, nofun⟩
    have hend := hfirst.trans (hnext.trans (phase_last hstartD hcarry hdecode hpb))
    obtain ⟨htodo, -, hownB⟩ := exec_ended hstartD hdecode hpb
    have hbits : a.bsrc.bits = s.bsrc.bits := (engineKeeps_exec hrdhdr).1.bsrcBits
    simp only [State.uncounted, Prod.mk.injEq] at hownA hownB
    obtain ⟨hsymInA, hbitsOutA, -, hbytesOutA, -⟩ := hownA
    obtain ⟨-, -, -, -, hhdrBitsB, -⟩ := hownB
    rw [exec_of_within rfl hr hend hpb (by simp only [commandPieces, State.workBound, hbits]; omega), asPhase_last htodo]
    simp only [handOver, asPhase, accepted, accept, hsymInA, hbitsOutA, hbytesOutA, hhdrBitsB, zero_add, add_zero]
    rfl

/-! ## NOP and CLEAR -/

/-- Settles O24: the body of NOP is its `done`, in one piece of work (`exec_of_one_piece`). -/
theorem nopOnlyCompletes : Obligations.NopOnlyCompletes :=
  fun s hr => exec_of_one_piece (i := .nop) (s := s) rfl hr rfl

/-- Settles O25: the body of CLEAR ends in its first piece of work (`exec_of_one_piece`). -/
theorem clearInvalidatesEverything : Obligations.ClearInvalidatesEverything :=
  fun s hr => ⟨_, _, _, _, exec_of_one_piece (i := .clear) (s := s) rfl hr rfl⟩

/-! ## COMPRESS without an error -/

theorem byteCounts_ne_zero {bs : List Byte} {b : Byte} (hb : b ∈ bs) (hc : bs.count b < 2 ^ 32) :
    (byteCounts bs)[b.toNat] ≠ 0 := by
  rw [getElem_byteCounts, ne_eq, ← BitVec.toNat_inj, BitVec.toNat_ofNat, Nat.mod_eq_of_lt hc]
  exact (List.count_pos_iff.mpr hb).ne'

/-- After BUILD and GENCODES of the counts of the input every byte of it has a code, and the sentinel has one (R132). -/
theorem codes_of_counts {a b c : State} {bs : List Byte} (hr : Ready a) (hv : a.freqValid = true)
    (hf : a.freq = byteCounts bs) (hlt : ∀ b, bs.count b < 2 ^ 32) (hbuild : exec .build a = .next b)
    (hgen : exec .gencodes b = .next c) : (∀ x ∈ bs, c.codeOf x ≠ []) ∧ c.eofCode ≠ [] := by
  obtain ⟨t, u, hbuild', hgen', -, -, hbytes, heof, -⟩ := builtCodesAreACompletePrefixCode a hr hv
  obtain rfl := Host.Outcome.next.inj (hbuild.symm.trans hbuild')
  obtain rfl := Host.Outcome.next.inj (hgen.symm.trans hgen')
  refine ⟨fun x hx => (hbytes ⟨x.toNat, x.isLt⟩).mpr (.inl ?_), heof⟩
  rw [hf]
  exact byteCounts_ne_zero hx (hlt x)

/-- COUNT and BUILD of input that the counters hold: what they leave, and the codes GENCODES then makes (R100, R116, R132). -/
theorem exec_count_build {s : State} (hr : Ready s) (hsrc : Answers s.src.replies) (hp : s.src.pos = 0)
    (hw : s.params.wCount ≤ 32) (hlt : ∀ b, s.src.data.count b < 2 ^ s.params.wCount) :
    ∃ (a b : State) (tree : HTree), exec .count s = .next a ∧ Ready a ∧ a.err = false ∧
      a.symIn = BitVec.ofNat 32 s.src.data.length ∧ exec .build a = .next b ∧ HoldsTree b tree ∧ 2 ≤ tree.leaves ∧
      (∀ c, exec .gencodes b = .next c → (∀ x ∈ s.src.data, c.codeOf x ≠ []) ∧ c.eofCode ≠ []) ∧
      b = { finished 0x05 s with
        freqValid := true, pqActive := false, treeValid := true, treeSrc := false, codesValid := false
        pq := [], root := b.root, nodeCount := b.nodeCount, leafCount := b.leafCount, node := b.node, freq := b.freq
        src := ⟨s.src.data, s.src.data.length, s.src.replies.drop (s.src.data.length + 1)⟩ } := by
  have hlt32 : ∀ b, s.src.data.count b < 2 ^ 32 := fun b => (hlt b).trans_le (Nat.pow_le_pow_right two_pos hw)
  have hcount := countCountsEveryByte s hr hsrc (by rw [hp]; exact hlt)
  simp only [hp, List.drop_zero, Nat.zero_add] at hcount
  obtain ⟨a, ha⟩ : ∃ a, exec .count s = .next a := ⟨_, hcount⟩
  have haeq := Host.Outcome.next.inj (ha.symm.trans hcount)
  have hra : Ready a := by rw [haeq]; exact ⟨rfl, hr.2⟩
  have hva : a.freqValid = true := by rw [haeq]
  have hfa : a.freq = byteCounts s.src.data := by rw [haeq]; rfl
  obtain ⟨b, tree, hb, hbeq, htree, h2, -⟩ := buildMakesAHuffmanTree a hra hva
  refine ⟨a, b, tree, ha, hra, by rw [haeq]; rfl, by rw [haeq], hb, htree, h2,
    fun c hc => codes_of_counts hra hva hfa hlt32 hb hc, ?_⟩
  rw [hbeq, haeq]
  rfl

/-- `s` after GENCODES over `t` (R131). -/
def gencodesDone (t : HTree) (s : State) : State := { finished 0x06 s with codesValid := true, ct := t.codeTable }

/-- `s` after WRHDR over `t` (R141). -/
def wrhdrDone (t : HTree) (s : State) : State :=
  { finished 0x07 s with
    bitsOut := BitVec.ofNat 64 (32 + t.wire.length), hdrBits := BitVec.ofNat 32 t.wire.length
    bsnk := ⟨s.bsnk.bits ++ bitsN 32 0xFACE8201 ++ t.wire, s.bsnk.replies.drop (1 + t.size + t.leaves)⟩ }

/-- Settles O47: COMPRESS runs its phases (`compressRunsItsPhases`), each of which leaves what its own statement says. -/
theorem compressWritesHeaderAndBody : Obligations.CompressWritesHeaderAndBody := by
  intro s hr hsrc hsnk hp hw hlt
  obtain ⟨a, b, tree, hcount, hra, hea, hsymIn, hbuild, htree, h2, hcodes, hb⟩ := exec_count_build hr hsrc hp hw hlt
  have hrb : Ready b := by rw [hb]; exact ⟨rfl, hr.2⟩
  have hsrcB : Answers b.src.replies := by rw [hb]; exact hsrc.drop _
  have hsnkB : Answers b.bsnk.replies := by rw [hb]; exact hsnk
  have hdata : b.src.data = s.src.data := by rw [hb]
  obtain ⟨ids, hids, -⟩ := htree.tree
  have hgen : exec .gencodes b = .next (gencodesDone tree b) :=
    gencodesRecordsLeafPaths b tree hrb htree (hids.root_internal_of_two h2)
  obtain ⟨hbytes, heof⟩ := hcodes _ hgen
  obtain ⟨hlen, hwrhdr⟩ :=
    wrhdrWritesMagicAndTree (gencodesDone tree b) tree ⟨rfl, hrb.2⟩ (htree.congr rfl) hsnkB
  have hencode := encodeWritesCodesAndSentinel (wrhdrDone tree (gencodesDone tree b)) ⟨rfl, hrb.2⟩ rfl hsrcB
    (hsnkB.drop _) (fun x hx => hbytes x (hdata ▸ hx)) heof
  have hcompress := ((compressRunsItsPhases s a b _ (wrhdrDone tree (gencodesDone tree b)) _ hr hcount).2 hea hra.1
    hbuild hgen hwrhdr).2 rfl rfl hencode rfl
  refine ⟨_, tree, hcompress, htree.congr rfl, rfl, rfl, rfl, rfl, ?_⟩
  rw [hb]
  refine ⟨rfl, rfl, rfl, rfl, rfl, rfl, ⟨rfl, ?_, ?_, ?_⟩, rfl, rfl, rfl, rfl, rfl, rfl⟩
  · show a.symIn + BitVec.ofNat 32 s.src.data.length = _
    rw [hsymIn, ← BitVec.ofNat_add, Nat.two_mul]
  · rw [← hlen, BitVec.ofNat_add (32 + tree.wire.length)]
    rfl
  · rw [← hlen]
    rfl

end Sys2Proof.Machine

/-! # Errors of a command and dropped commands

Error entry (R193), a transaction answered `IOERR` (R194, R206), and the life of DROP (R198). -/

namespace Sys2Proof.Machine

/-! ## Error entry -/

/-- Settles O20: the cases of `spoil`, by the table the failing command had begun to fill. -/
theorem raiseRecordsTheError : Obligations.RaiseRecordsTheError := by
  intro e q s op hp
  have hop : s.phaseOpc = op := by rw [State.phaseOpc, hp]
  unfold raise
  rw [hop]
  obtain ⟨hw, hs⟩ | ⟨hw, hs⟩ | ⟨-, -, hs⟩ := spoil_cases s
  · exact ⟨_, _, _, by rw [hs]; rfl, fun hn => absurd hw hn, fun _ => rfl⟩
  · exact ⟨_, _, _, by rw [hs]; rfl, fun _ => rfl, fun hn => by rw [hw] at hn; cases hn⟩
  · exact ⟨_, _, _, by rw [hs], fun _ => rfl, fun _ => rfl⟩

/-! ## A transaction answered `IOERR` -/

/-- `u` is `s` after a transaction on port `q` that was answered `IOERR`: one response is taken, reads may have moved the position
and writes may have appended (R63 to R66); BITS_OUT may have counted where a code was being emitted (R160). -/
inductive IoFailed (s : State) : PortId → State → Prop where
  | src (pos d : Nat) : IoFailed s .src { s with src := ⟨s.src.data, pos, s.src.replies.tail⟩, draws := d }
  | bsnk (c : Bits) (n : BitVec 64) (d : Nat) : ((∀ c last, s.work ≠ .emit c last) → n = s.bitsOut) →
      IoFailed s .bsnk { s with bsnk := ⟨s.bsnk.bits ++ c, s.bsnk.replies.tail⟩, bitsOut := n, draws := d }
  | bsrc (pos d : Nat) : IoFailed s .bsrc { s with bsrc := ⟨s.bsrc.bits, pos, s.bsrc.replies.tail⟩, draws := d }
  | bysnk (bs : List Byte) (d : Nat) :
      IoFailed s .bysnk { s with bysnk := ⟨s.bysnk.bytes ++ bs, s.bysnk.replies.tail⟩, draws := d }

section

variable {s : State}

theorem srcRead_ioerr (h : nextReply s.src.replies = .ioerr) : ∃ u, IoFailed s .src u ∧ srcRead s = (.ioerr, u) :=
  ⟨_, .src _ _, by rw [srcRead, h]⟩

theorem srcRewind_ioerr (h : nextReply s.src.replies = .ioerr) :
    ∃ u, IoFailed s .src u ∧ srcRewind s = (.ioerr, u) :=
  ⟨_, .src _ _, by rw [srcRewind, h]⟩

theorem byteWrite_ioerr (v : Byte) (h : nextReply s.bysnk.replies = .ioerr) :
    ∃ u, IoFailed s .bysnk u ∧ byteWrite v s = (.ioerr, u) :=
  ⟨_, .bysnk _ _, by rw [byteWrite, h]⟩

theorem put_ioFailed (c : Bits) (h : nextReply s.bsnk.replies = .ioerr) :
    ∃ u, IoFailed s .bsnk u ∧ put c s = .stop (raise .upstreamIo .bsnk u) := by
  obtain ⟨k, hk⟩ := put_ioerr c h
  exact ⟨_, .bsnk _ _ _ fun _ => rfl, hk⟩

theorem emit_ioFailed {c : Bits} {last : Bool} (hw : s.work = .emit c last) (h : nextReply s.bsnk.replies = .ioerr) :
    ∃ u, IoFailed s .bsnk u ∧ emit c s = .stop (raise .upstreamIo .bsnk u) := by
  obtain ⟨k, n, hk⟩ := emit_ioerr c h
  exact ⟨_, .bsnk _ _ _ fun hn => absurd hw (hn c last), hk⟩

theorem get_ioFailed (n : Nat) (e : ErrCode) (h : nextReply s.bsrc.replies = .ioerr) :
    ∃ u, IoFailed s .bsrc u ∧ get n e s = .stop (raise .upstreamIo .bsrc u) := by
  obtain ⟨pos, hk⟩ := get_ioerr n e h
  exact ⟨_, .bsrc _ _, hk⟩

/-- The flag bit of a token is read by one transaction, whichever token it is (R142). -/
theorem getTokenTick_of_flag_stop {t : State} (st : List Frame) (h : getFlag s = .stop t) : getTokenTick st s = t := by
  unfold getTokenTick
  split
  · rw [leafToken, h]
  · rw [internalToken, h]

/-- Wherever the engine awaits a response that is `IOERR`, its piece of work is that transaction and the error (R193). -/
theorem tick_of_ioerr (hp : s.work.port ≠ .none) (h : s.replyAt s.work.port = .ioerr) :
    ∃ u, IoFailed s s.work.port u ∧ tick s = raise .upstreamIo s.work.port u := by
  unfold tick
  cases hw : s.work <;> rw [hw] at hp h <;> dsimp only
  case none | start => exact absurd rfl hp
  case countRead =>
    obtain ⟨u, hu, hr⟩ := srcRead_ioerr h
    exact ⟨u, hu, by rw [countTick, hr]; rfl⟩
  case putMagic =>
    obtain ⟨u, hu, hr⟩ := put_ioFailed (bitsN 32 Config.magicTree.toNat) h
    exact ⟨u, hu, by rw [putMagicTick, hr]; rfl⟩
  case putFlag st =>
    cases st with
    | nil => exact absurd rfl hp
    | cons i st =>
      obtain ⟨u, hu, hr⟩ := put_ioFailed [(s.nodeAt i).isLeaf] h
      exact ⟨u, hu, by rw [putFlagTick, hr]; rfl⟩
  case putValue st =>
    cases st with
    | nil => exact absurd rfl hp
    | cons i st =>
      obtain ⟨u, hu, hr⟩ := put_ioFailed (bitsN 9 (s.nodeAt i).value.toNat) h
      exact ⟨u, hu, by rw [putValueTick, hr]; rfl⟩
  case getMagic =>
    obtain ⟨u, hu, hr⟩ := get_ioFailed 32 .formatMismatch h
    exact ⟨u, hu, by rw [getMagicTick, hr]; rfl⟩
  case getToken st =>
    obtain ⟨u, hu, hr⟩ := get_ioFailed 1 .truncatedHeader h
    exact ⟨u, hu, getTokenTick_of_flag_stop st (by rw [getFlag, hr]; rfl)⟩
  case getValue i st =>
    obtain ⟨u, hu, hr⟩ := get_ioFailed 9 .truncatedHeader h
    exact ⟨u, hu, by rw [leafValue, hr]; rfl⟩
  case rewind =>
    obtain ⟨u, hu, hr⟩ := srcRewind_ioerr h
    exact ⟨u, hu, by rw [rewindTick, hr]; rfl⟩
  case encodeRead =>
    obtain ⟨u, hu, hr⟩ := srcRead_ioerr h
    exact ⟨u, hu, by rw [encodeReadTick, hr]; rfl⟩
  case emit c last =>
    obtain ⟨u, hu, hr⟩ := emit_ioFailed hw h
    exact ⟨u, hu, by rw [emitTick, hr]; rfl⟩
  case decodeBit p =>
    obtain ⟨u, hu, hr⟩ := get_ioFailed 1 .truncatedBody h
    exact ⟨u, hu, by rw [decodeBitTick, hr]; rfl⟩
  case decodeByte v =>
    obtain ⟨u, hu, hr⟩ := byteWrite_ioerr v h
    exact ⟨u, hu, by rw [decodeByteTick, hr]; rfl⟩

/-- The flag bit of a token, where BSRC answers that read and the pool has a free entry (R142). -/
theorem getFlag_of_answer {b : Bool} {p : Bits} (ha : nextReply s.bsrc.replies = .answer) (hr : s.bsrcRest = b :: p)
    (hc : s.nodeCount.toNat < 513) : getFlag s = .go () (treeBitsTaken 1 s) := by
  rw [getFlag, get_data (n := 1) _ ha (by rw [hr]; exact Nat.le_add_left ..)]
  exact if_neg (Nat.not_le.mpr hc)

/-- LEAF whose flag bit is answered and whose value bits are not: the entry is allocated, and the error raised (R142). -/
theorem getTokenTick_of_value_ioerr {p : Bits} {rs : List Reply} (st : List Frame) (hr : s.bsrcRest = true :: p)
    (ha : s.bsrc.replies = .answer :: .ioerr :: rs) (hc : s.nodeCount.toNat < 513) : ∃ pos d,
    getTokenTick st s = raise .upstreamIo .bsrc { leafAllocated st (treeBitsTaken 1 s) with
      bsrc := ⟨s.bsrc.bits, pos, rs⟩, draws := d } := by
  have hflag : getFlag s = .go () (treeBitsTaken 1 s) := getFlag_of_answer (by rw [ha]; rfl) hr hc
  obtain ⟨pos, hget⟩ := get_ioerr (s := leafAllocated st (treeBitsTaken 1 s)) 9 .truncatedHeader
    (by show nextReply s.bsrc.replies.tail = _; rw [ha]; rfl)
  refine ⟨pos, s.draws + 1, ?_⟩
  rw [getTokenTick, hr]
  dsimp only
  rw [leafToken, hflag]
  show leafValue _ _ _ (leafAllocated st (treeBitsTaken 1 s)) = _
  rw [leafValue, hget]
  show raise _ _ { leafAllocated st (treeBitsTaken 1 s) with
    bsrc := ⟨s.bsrc.bits, pos, s.bsrc.replies.tail.tail⟩, draws := s.draws + 1 } = _
  rw [ha]
  rfl

end

/-- Settles O21: the LEAF token's second read (`getTokenTick_of_value_ioerr`), tokens as pieces of work (`exec_of_awaited`), and
the awaited transactions (`tick_of_ioerr`) port by port. -/
theorem ioErrorRaisesUpstreamIo : Obligations.IoErrorRaisesUpstreamIo := by
  refine ⟨fun s op st p rs hph hw hr ha hc => ?_, fun s i h => exec_of_awaited h, fun s op hph hp h => ?_⟩
  · obtain ⟨pos, d, ht⟩ := getTokenTick_of_value_ioerr st hr ha hc
    obtain ⟨f, n, d', he, hf, -⟩ := raiseRecordsTheError .upstreamIo .bsrc
      { leafAllocated st (treeBitsTaken 1 s) with bsrc := ⟨s.bsrc.bits, pos, rs⟩, draws := d } op hph
    obtain rfl := hf nofun
    refine ⟨n, pos, d', ?_⟩
    rw [tick, hw]
    exact ht.trans he
  · obtain ⟨u, hu, ht⟩ := tick_of_ioerr hp h
    dsimp only
    rw [ht]
    generalize s.work.port = q at hu
    have hop : u.phase = .busy op := by cases hu <;> exact hph
    obtain ⟨f, n, d, he, -, -⟩ := raiseRecordsTheError .upstreamIo q u op hop
    rw [he]
    cases hu with
    | src pos d => simp
    | bsnk c n d hn => simpa using hn
    | bsrc pos d => simp
    | bysnk bs d => simp

/-! ## DROP -/

/-- A register access that is served is a 32-bit word's (R61). -/
theorem width_of_accessed {width addr : Nat} {s t : State} {served : Action}
    (h : (accessed width addr s served).outcome = .next t) : width = 32 := by
  unfold accessed at h
  split at h
  · cases h
  · split at h
    · rename_i hd
      exact (of_decide_eq_true hd).1
    · cases h

/-- No command word clears DROP (R191, R198). -/
theorem drop_commandWrite {w : Word} {s t : State} (h : (commandWrite w s).outcome = .next t) (hd : s.drop = true) :
    t.drop = true := by
  unfold commandWrite at h
  split at h
  · cases h
    rfl
  · rename_i hb
    have hp : s.phase = .idle := by simpa [State.busy] using hb
    split at h
    · exact ((engineKeeps_exec h).2 hp).trans hd
    · cases h
      obtain ⟨f, n, d, he⟩ := raise_frame .illegalCommand .none (accept w .none s)
      rw [illegalCommand, he]
      exact hd

/-- Of the other registers, a write to STATUS with bit 3 set clears DROP (R197). -/
theorem of_writeReg_clears_drop {addr : Nat} {w : Word} {s : State} (hd : s.drop = true)
    (h : (writeReg addr w s).drop = false) : addr = 0x0C ∧ w[3] = true := by
  unfold writeReg at h
  split at h
  · exact ⟨rfl, by simpa [hd] using h⟩
  all_goals exact absurd (hd.symm.trans h) nofun

theorem drop_assertReset (s : State) : (assertReset s).drop = s.drop := by
  unfold assertReset
  split <;> rfl

/-- Releasing a line that is not asserted does nothing (R220). -/
theorem resetLine_of_releaseReset_drop {s : State} (h : (releaseReset s).drop ≠ s.drop) : s.resetLine = true := by
  by_contra hr
  exact h (by rw [releaseReset, if_neg hr])

theorem drop_setReplies (port : PortId) (rs : List Reply) (s : State) : (setReplies port rs s).drop = s.drop := by
  cases port <;> rfl

/-- The host's moves that clear DROP (R197, R198, R220). -/
theorem of_hostMove_clears_drop {s t : State} (h : (hostMove s).outcome = .next t) (hd : s.drop = true)
    (ht : t.drop = false) : (∃ w rest, s.host = .write 32 0x0C w :: rest ∧ w[3] = true) ∨
      ∃ rest, s.host = .releaseReset :: rest ∧ s.resetLine = true := by
  have hkept : t.drop ≠ s.drop := by rw [hd, ht]; nofun
  unfold hostMove at h
  cases hh : s.host with
  | nil =>
    rw [hh] at h
    cases h
    exact absurd rfl hkept
  | cons e rest =>
    rw [hh] at h
    cases e with
    | write width addr w =>
      obtain rfl := width_of_accessed h
      have hserved := (accessed_cases h).2
      split at hserved
      · exact absurd ((drop_commandWrite hserved hd).trans hd.symm) hkept
      · cases hserved
        obtain ⟨rfl, hw⟩ := of_writeReg_clears_drop (s := popEvent s) hd ht
        exact .inl ⟨w, rest, rfl, hw⟩
    | read width addr =>
      cases (accessed_cases h).2
      obtain ⟨d, hr⟩ := hostRead_eq addr (popEvent s)
      exact absurd (congrArg State.drop hr) hkept
    | wait =>
      cases (accessed_cases h).2
      obtain ⟨d, hr⟩ := hostWait_eq s
      exact absurd (congrArg State.drop hr) hkept
    | assertReset => cases h; exact absurd (drop_assertReset (popEvent s)) hkept
    | releaseReset => cases h; exact .inr ⟨rest, rfl, resetLine_of_releaseReset_drop (s := popEvent s) hkept⟩
    | setReplies port rs => cases h; exact absurd (drop_setReplies port rs (popEvent s)) hkept
    | _ => cases h; exact absurd rfl hkept

/-- Settles O14: a COMMAND write while BUSY is `dropCommand`; of the moves only the host's clear DROP
(`of_hostMove_clears_drop`), since no piece of work does (`tick_keeps`). -/
theorem commandWhileBusyIsDropped : Obligations.CommandWhileBusyIsDropped := by
  refine ⟨fun s w rest hb ht hr hh => ?_, fun s s' hstep hd hd' => ?_⟩
  · have hbusy : ({ hostServed s with host := rest } : State).busy = true :=
      (hostServed_busy s).trans (by simpa [State.busy] using hb)
    rw [step_of_hostTurn ht, hostMove, hostServed_host, hh]
    dsimp only
    rw [accessed_eq _ (by simpa using hr) rfl (by decide), if_pos (by rfl), popEvent_hostServed hh, commandWrite,
      if_pos hbusy]
    rfl
  · rcases hostTurn_or_engineTurn s with hh | ⟨hb, hn, hw⟩
    · rw [step_of_hostTurn hh] at hstep
      have hcleared := of_hostMove_clears_drop hstep (by obtain ⟨r, hr⟩ := hostServed_frame s; rw [hr]; exact hd) hd'
      simpa using hcleared
    · rw [step_of_engineTurn hb (hn ▸ nextTurn_eq s) hw, outcome_engineMove] at hstep
      cases hstep
      have hkept : s.drop = false := (tick_keeps { s with sched := s.sched.tail }).drop.symm.trans hd'
      exact absurd (hd.symm.trans hkept) nofun

end Sys2Proof.Machine

/-! # Reset, and the end of every answered command

The assertion of reset as the host's move (R220, R221). A command whose transactions are all answered never waits (`Answered`), so that
the bound on its pieces of work (`settled_run_accepted`) is where it ends (R230, R231). -/

namespace Sys2Proof.Machine

/-! ## Reset asserted -/

/-- Reset asserted in the host's turn. -/
theorem step_assertReset {s : State} {rest : List HostEvent} (ht : HostTurn s) (h : s.host = .assertReset :: rest) :
    step s = .next (assertReset { hostServed s with host := rest }) := by
  rw [step_of_hostTurn ht, hostMove, hostServed_host, h]
  dsimp only
  rw [popEvent_hostServed h]
  rfl

theorem assertReset_of_idle {s : State} (h : s.phase = .idle) : assertReset s = { s with resetLine := true } := by
  unfold assertReset
  rw [h]

/-- What the collaborators hold after the abandoned command is free (R221). -/
theorem assertReset_of_busy {s : State} (h : s.phase ≠ .idle) : ∃ inp sp out bin bp ob d, assertReset s = { s with
    resetLine := true, phase := .idle, work := .none, todo := []
    src := ⟨inp, sp, s.src.replies⟩, bsnk := ⟨out, s.bsnk.replies⟩, bsrc := ⟨bin, bp, s.bsrc.replies⟩
    bysnk := ⟨ob, s.bysnk.replies⟩, draws := d } := by
  unfold assertReset
  split
  · exact absurd ‹_› h
  · exact ⟨_, _, _, _, _, _, _, rfl⟩

/-- Settles O8: the host's move is the assertion of reset, in a block that is BUSY (`assertReset_of_busy`). -/
theorem resetAbandonsARunningCommand : Obligations.ResetAbandonsARunningCommand := by
  intro s rest hb ht hh
  obtain ⟨r, hs⟩ := hostServed_frame s
  rw [step_assertReset ht hh, hs]
  obtain ⟨inp, sp, out, bin, bp, ob, d, hr⟩ :=
    assertReset_of_busy (s := { s with sched := r, host := rest }) hb
  exact ⟨inp, sp, out, bin, bp, ob, d, congrArg _ hr⟩

/-- Settles O60: the host's move is the assertion of reset, in a block that is IDLE (`assertReset_of_idle`), or nothing. -/
theorem resetWhileIdleHoldsTheBlock : Obligations.ResetWhileIdleHoldsTheBlock := by
  intro s hp
  refine ⟨fun rest hh => ?_, fun hh => ?_⟩
  · rw [step_assertReset (.inl hp) hh, hostServed_of_idle hp, assertReset_of_idle (by exact hp)]
  · rw [step_of_noEvent (.inl hp) hh, hostServed_of_idle hp]

/-! ## Responses still to come -/

/-- The command has failed, or the collaborators answer every transaction still to come (R62). -/
def Answered (s : State) : Prop := s.phase = .idle ∧ s.err = true ∨ AllAnswered s

theorem answered_raise (e : ErrCode) (q : PortId) (s : State) : Answered (raise e q s) := .inl ⟨rfl, rfl⟩

theorem answered_ite {s t : State} (c : Bool) (h : Answered s) (g : Answered t) : Answered (if c then s else t) := by
  cases c with
  | true => exact h
  | false => exact g

theorem allAnswered_phaseDone {s : State} (h : AllAnswered s) : AllAnswered (phaseDone s) := by
  obtain ⟨_, _, _, _, hd⟩ := phaseDone_frame s
  rw [hd]
  exact h

theorem allAnswered_builder {s t : State} (h : AllAnswered s) (ht : BuilderOnly s t) : AllAnswered t := by
  rw [ht]
  exact h

theorem allAnswered_serNext (st : List NodeIdx) {s : State} (h : AllAnswered s) : AllAnswered (serNext st s) := by
  cases st with
  | nil => exact allAnswered_phaseDone h
  | cons i st => exact h

theorem allAnswered_closeSubtree (r : NodeIdx) (st : List Frame) {s : State} (h : AllAnswered s) :
    AllAnswered (closeSubtree r st s) := by
  induction st generalizing r s with
  | nil => exact allAnswered_phaseDone h
  | cons f st ih =>
    obtain ⟨i, _ | l⟩ := f
    · exact h
    · exact ih i h

theorem allAnswered_arrive (p : NodeIdx) {s : State} (h : AllAnswered s) : AllAnswered (arrive p s) := by
  unfold arrive
  dsimp only
  split
  · exact h
  · split
    · exact allAnswered_phaseDone h
    · exact h

theorem answered_emitCode (c : Bits) (last : Bool) {s : State} (h : AllAnswered s) : Answered (emitCode c last s) :=
  answered_ite _ (answered_raise ..) (.inr h)

/-- A body's first piece of work uses no port. -/
theorem answered_startBody (i : Instr) {s : State} (h : AllAnswered s) : Answered (startBody i s) := by
  have hbuilt : ∀ {u : State}, BuilderOnly s u → Answered (phaseDone u) := fun hu =>
    .inr (allAnswered_phaseDone (allAnswered_builder h hu))
  cases i with
  | nop => exact .inr (allAnswered_phaseDone h)
  | clear => exact .inr (allAnswered_phaseDone h)
  | buildInit => exact answered_ite _ (hbuilt (builderOnly_buildInitBody s)) (answered_raise ..)
  | buildMerge => exact answered_ite _ (hbuilt (builderOnly_buildMergeBody s)) (answered_raise ..)
  | build => exact answered_ite _ (hbuilt (builderOnly_buildBody s)) (answered_raise ..)
  | gencodes =>
    exact answered_ite _ (answered_raise ..) (answered_ite _ (answered_raise ..) (.inr (allAnswered_phaseDone h)))
  | wrhdr => exact answered_ite _ (.inr h) (answered_raise ..)
  | encode => exact answered_ite _ (.inr h) (answered_raise ..)
  | decode => exact answered_ite _ (answered_raise ..) (answered_ite _ (answered_raise ..) (.inr h))
  | _ => exact .inr h

section

variable {s : State} (h : AllAnswered s)
include h

theorem waiting_eq_false_of_allAnswered : s.waiting = false := by
  obtain ⟨hsrc, hbsnk, hbsrc, hbysnk⟩ := h
  refine decide_eq_false ?_
  cases s.work.port with
  | none => exact nofun
  | src => exact nextReply_ne_silent hsrc
  | bsnk => exact nextReply_ne_silent hbsnk
  | bsrc => exact nextReply_ne_silent hbsrc
  | bysnk => exact nextReply_ne_silent hbysnk

theorem allAnswered_srcTail (p : Nat) : AllAnswered { s with src := ⟨s.src.data, p, s.src.replies.tail⟩ } := by
  obtain ⟨hsrc, hothers⟩ := h
  exact ⟨hsrc.tail, hothers⟩

theorem allAnswered_bitsPut (c : Bits) : AllAnswered (bitsPut c 1 s) := by
  obtain ⟨hsrc, hbsnk, hothers⟩ := h
  exact ⟨hsrc, fun r hr => hbsnk r (List.mem_of_mem_drop hr), hothers⟩

theorem allAnswered_bitsTaken (n : Nat) : AllAnswered (bitsTaken n s) := by
  obtain ⟨hsrc, hbsnk, hbsrc, hbysnk⟩ := h
  exact ⟨hsrc, hbsnk, hbsrc.tail, hbysnk⟩

/-! ## No piece of work waits -/

theorem answered_countTick (hk : s.work = .countRead) : Answered (countTick s) := by
  unfold countTick
  rcases srcRead_cases (waiting_eq_false_of_allAnswered h) (by rw [hk]; rfl) with ⟨u, hr⟩ | ⟨hlt, hr⟩ | hr <;> rw [hr]
  · exact answered_raise ..
  · dsimp only [countByte]
    split
    · exact answered_raise ..
    · exact .inr (allAnswered_srcTail h _)
  · exact .inr (allAnswered_phaseDone (allAnswered_srcTail h _))

theorem answered_putMagicTick (hk : s.work = .putMagic) : Answered (putMagicTick s) := by
  unfold putMagicTick
  rcases put_cases _ (waiting_eq_false_of_allAnswered h) (by rw [hk]; rfl) with ⟨e, q, u, hr⟩ | hr <;> rw [hr]
  · exact answered_raise ..
  · exact .inr (allAnswered_bitsPut h _)

theorem answered_putFlagTick {st : List NodeIdx} (hk : s.work = .putFlag st) : Answered (putFlagTick st s) := by
  cases st with
  | nil => exact .inr (allAnswered_phaseDone h)
  | cons i st =>
    unfold putFlagTick
    rcases put_cases [(s.nodeAt i).isLeaf] (waiting_eq_false_of_allAnswered h) (by rw [hk]; rfl) with
      ⟨e, q, u, hr⟩ | hr <;> simp only [hr]
    · exact answered_raise ..
    · have hput := allAnswered_bitsPut h [(s.nodeAt i).isLeaf]
      exact answered_ite _ (.inr hput) (.inr (allAnswered_serNext _ hput))

theorem answered_putValueTick {st : List NodeIdx} (hk : s.work = .putValue st) : Answered (putValueTick st s) := by
  cases st with
  | nil => exact .inr (allAnswered_phaseDone h)
  | cons i st =>
    unfold putValueTick
    rcases put_cases (bitsN 9 (s.nodeAt i).value.toNat) (waiting_eq_false_of_allAnswered h) (by rw [hk]; rfl) with
      ⟨e, q, u, hr⟩ | hr <;> simp only [hr]
    · exact answered_raise ..
    · exact .inr (allAnswered_serNext _ (allAnswered_bitsPut h _))

theorem answered_getMagicTick (hk : s.work = .getMagic) : Answered (getMagicTick s) := by
  unfold getMagicTick
  rcases get_cases 32 .formatMismatch (waiting_eq_false_of_allAnswered h) (by rw [hk]; rfl) with
    ⟨e, q, u, hr⟩ | ⟨-, hr⟩ <;> rw [hr]
  · exact answered_raise ..
  · dsimp only
    split
    · exact .inr (allAnswered_bitsTaken h 32)
    · exact answered_raise ..

theorem answered_leafValue (v : Nat) {i : NodeIdx} {st : List Frame} (hk : s.work = .getValue i st) :
    Answered (leafValue v i st s) := by
  unfold leafValue
  rcases get_cases 9 .truncatedHeader (waiting_eq_false_of_allAnswered h) (by rw [hk]; rfl) with
    ⟨e, q, u, hr⟩ | ⟨-, hr⟩ <;> rw [hr]
  · exact answered_raise ..
  · exact .inr (allAnswered_closeSubtree _ _ (allAnswered_bitsTaken h 9))

theorem answered_getTokenTick {st : List Frame} (hk : s.work = .getToken st) : Answered (getTokenTick st s) := by
  rcases getFlag_cases (waiting_eq_false_of_allAnswered h) (by rw [hk]; rfl) with ⟨e, q, u, hr⟩ | ⟨-, hr⟩
  · rw [getTokenTick_of_flag_stop st hr]
    exact answered_raise ..
  · have htaken : AllAnswered (treeBitsTaken 1 s) := allAnswered_bitsTaken h 1
    unfold getTokenTick
    split
    · rw [leafToken, hr]
      exact answered_leafValue (s := leafAllocated st (treeBitsTaken 1 s)) htaken _ rfl
    · rw [internalToken, hr]
      exact .inr htaken

theorem answered_rewindTick (hk : s.work = .rewind) : Answered (rewindTick s) := by
  unfold rewindTick
  rcases srcRewind_cases (waiting_eq_false_of_allAnswered h) (by rw [hk]; rfl) with ⟨u, hr⟩ | hr <;> rw [hr]
  · exact answered_raise ..
  · exact .inr (allAnswered_srcTail h 0)

theorem answered_encodeReadTick (hk : s.work = .encodeRead) : Answered (encodeReadTick s) := by
  unfold encodeReadTick
  rcases srcRead_cases (waiting_eq_false_of_allAnswered h) (by rw [hk]; rfl) with ⟨u, hr⟩ | ⟨hlt, hr⟩ | hr <;> rw [hr]
  · exact answered_raise ..
  · exact answered_emitCode _ _ (allAnswered_srcTail h (s.src.pos + 1))
  · exact answered_emitCode _ _ (allAnswered_srcTail h s.src.pos)

theorem answered_emitTick {c : Bits} {last : Bool} (hk : s.work = .emit c last) : Answered (emitTick c last s) := by
  unfold emitTick
  rcases emit_cases c (waiting_eq_false_of_allAnswered h) (by rw [hk]; rfl) with ⟨e, q, u, hr⟩ | hr <;> rw [hr]
  · exact answered_raise ..
  · have hput := allAnswered_bitsPut h c
    exact answered_ite _ (.inr (allAnswered_phaseDone hput)) (.inr hput)

theorem answered_decodeBitTick {p : NodeIdx} (hk : s.work = .decodeBit p) : Answered (decodeBitTick p s) := by
  unfold decodeBitTick
  rcases get_cases 1 .truncatedBody (waiting_eq_false_of_allAnswered h) (by rw [hk]; rfl) with
    ⟨e, q, u, hr⟩ | ⟨-, hr⟩ <;> rw [hr]
  · exact answered_raise ..
  · exact .inr (allAnswered_arrive _ (allAnswered_bitsTaken h 1))

theorem answered_decodeByteTick {v : Byte} (hk : s.work = .decodeByte v) : Answered (decodeByteTick v s) := by
  unfold decodeByteTick
  rcases byteWrite_cases v (waiting_eq_false_of_allAnswered h) (by rw [hk]; rfl) with ⟨u, hr⟩ | hr <;> rw [hr]
  · exact answered_raise ..
  · obtain ⟨hsrc, hbsnk, hbsrc, hbysnk⟩ := h
    exact .inr ⟨hsrc, hbsnk, hbsrc, hbysnk.tail⟩

/-- A piece of work takes responses off and adds none. -/
theorem answered_tick : Answered (tick s) := by
  unfold tick
  split
  · exact .inr h
  · exact answered_startBody _ h
  · exact answered_countTick h ‹_›
  · exact answered_putMagicTick h ‹_›
  · exact answered_putFlagTick h ‹_›
  · exact answered_putValueTick h ‹_›
  · exact answered_getMagicTick h ‹_›
  · exact answered_getTokenTick h ‹_›
  · exact answered_leafValue h _ ‹_›
  · exact answered_rewindTick h ‹_›
  · exact answered_encodeReadTick h ‹_›
  · exact answered_emitTick h ‹_›
  · exact answered_decodeBitTick h ‹_›
  · exact answered_decodeByteTick h ‹_›

end

/-! ## Commands end -/

theorem answered_run (k : Nat) {s : State} (h : AllAnswered s) : Answered (run k s) := by
  refine run_keeps (P := Answered) (fun _ hs => hs) (fun s hb hs => ?_) k (.inr h)
  rcases hs with ⟨hidle, -⟩ | hs
  · exact absurd hidle hb
  · exact answered_tick hs

/-- A command that is no composite one ends; where it does not fail, the transactions after it are still all answered. -/
theorem exec_ends {i : Instr} {s : State} (hs : Startable i s) (h : AllAnswered s) :
    ∃ t, exec i s = .next t ∧ t.phase = .idle ∧ t.done = true ∧ t.sched = [] ∧ (t.err = false → AllAnswered t) := by
  have hexec : exec i s = .next (run s.workBound (accepted i s)) := by
    rw [exec_command hs.command, runCommand_of_idle i hs.ready.1]
    rfl
  have hans : Answered (run s.workBound (accepted i s)) := answered_run _ h
  have hset := settled_run_accepted hs
  rw [← hset.run_eq_run (commandPieces_lt_workBound i s)] at hset
  generalize run s.workBound (accepted i s) = t at hexec hans hset
  have hidle : t.phase = .idle := by
    rcases hans with ⟨hidle, -⟩ | hall
    · exact hidle
    · exact hset.resolve_right (by rw [waiting_eq_false_of_allAnswered hall]; exact nofun)
  refine ⟨t, hexec, hidle, ?_, (exec_ended hs hexec hidle).2.1, fun he => ?_⟩
  · have hends := exec_phaseEnds hs hexec s []
    cases hends with
    | goesOn _ hu => exact absurd (hu.phase.symm.trans hidle) nofun
    | done u hu => rfl
    | failed e q u hu => rfl
  · rcases hans with ⟨-, herr⟩ | hall
    · exact absurd herr (by rw [he]; exact nofun)
    · exact hall

/-- A command that uses no port leaves the responses to come (R48). -/
theorem allAnswered_of_exec {i : Instr} {s t : State} (h : exec i s = .next t)
    (hp : ∀ p ∈ [Part.src, .bsnk, .bsrc, .bysnk], writesPart i p = false) (ha : AllAnswered s) : AllAnswered t := by
  have hsrc : t.src = s.src := same_of_exec h (hp .src (by simp))
  have hbsnk : t.bsnk = s.bsnk := same_of_exec h (hp .bsnk (by simp))
  have hbsrc : t.bsrc = s.bsrc := same_of_exec h (hp .bsrc (by simp))
  have hbysnk : t.bysnk = s.bysnk := same_of_exec h (hp .bysnk (by simp))
  rw [AllAnswered, hsrc, hbsnk, hbsrc, hbysnk]
  exact ha

/-- COMPRESS ends with the phase that fails, or with ENCODE (R182, R196). -/
theorem exec_compress_ends {s : State} (hr : Ready s) (h : AllAnswered s) :
    ∃ t, exec .compress s = .next t ∧ t.phase = .idle ∧ t.done = true := by
  obtain ⟨a, hcount, hpa, hda, -, haa⟩ := exec_ends (i := .count) ⟨rfl, nofun, nofun, hr, nofun⟩ h
  have hphases := fun b c d e => compressRunsItsPhases s a b c d e hr hcount
  cases hea : a.err with
  | true => exact ⟨_, (hphases a a a a).1 hea, hpa, hda⟩
  | false =>
    obtain ⟨b, hbuild⟩ : ∃ b, exec .build a = .next b := ⟨_, exec_command rfl a⟩
    obtain ⟨c, hgen⟩ : ∃ c, exec .gencodes b = .next c := ⟨_, exec_command rfl b⟩
    have hac : AllAnswered c :=
      allAnswered_of_exec hgen (by decide) (allAnswered_of_exec hbuild (by decide) (haa hea))
    obtain ⟨-, -, -, hstart, -⟩ := within_compress_wrhdr hr hcount hea hpa hbuild hgen
    obtain ⟨d, hwrhdr, hpd, hdd, hsd, had⟩ := exec_ends hstart hac
    have hafter := fun e => (hphases b c d e).2 hea hpa hbuild hgen hwrhdr
    cases hed : d.err with
    | true => exact ⟨_, (hafter d).1 hed, hpd, hdd⟩
    | false =>
      obtain ⟨e, hencode, hpe, hde, -⟩ :=
        exec_ends (i := .encode) ⟨rfl, nofun, nofun, ⟨hpd, hsd⟩, nofun⟩ (had hed)
      exact ⟨_, (hafter e).2 hed hpd hencode hpe, hpe, hde⟩

/-- DECOMPRESS ends with RDHDR where it fails, or with DECODE (R183, R196). -/
theorem exec_decompress_ends {s : State} (hr : Ready s) (h : AllAnswered s) :
    ∃ t, exec .decompress s = .next t ∧ t.phase = .idle ∧ t.done = true := by
  obtain ⟨a, hrdhdr, hpa, hda, hsa, haa⟩ := exec_ends (i := .rdhdr) ⟨rfl, nofun, nofun, hr, nofun⟩ h
  cases hea : a.err with
  | true => exact ⟨_, ((decompressRunsItsPhases s a a hr hrdhdr).1 hea).1, hpa, hda⟩
  | false =>
    obtain ⟨b, hdecode, hpb, hdb, -⟩ :=
      exec_ends (i := .decode) ⟨rfl, nofun, nofun, ⟨hpa, hsa⟩, nofun⟩ (haa hea)
    exact ⟨_, (decompressRunsItsPhases s a b hr hrdhdr).2 hea hpa hdecode hpb, hpb, hdb⟩

/-- Settles O55: a command that is no composite one ends within its pieces of work (`exec_ends`), and the composite ones are
their phases. -/
theorem everyAnsweredCommandEnds : Obligations.EveryAnsweredCommandEnds := by
  intro i s hi hr _ hpool h
  by_cases hc : i = .compress
  · exact hc ▸ exec_compress_ends hr h
  · by_cases hd : i = .decompress
    · exact hd ▸ exec_decompress_ends hr h
    · obtain ⟨t, hexec, hp, hdone, -⟩ := exec_ends ⟨hi, hc, hd, hr, fun _ => hpool.tree⟩ h
      exact ⟨t, hexec, hp, hdone⟩

end Sys2Proof.Machine
